-- ==== Sys2Proof/Word.lean ====
section
/-! DEFINITION. The widths of the block's values (R10, R11) and the plain data that travels with them. -/

namespace Sys2Proof

/-- A bus register, a virtual register, a command or payload byte: `DATA_W` = 8 bits (R10). -/
abbrev Byte := BitVec 8

/-- A request word, a float word, a reorderer lane: 32 bits (R110, R119, `LANE_W` of R10). -/
abbrev Word := BitVec 32

/-- A virtual register address: `VADDR_W` = 7 bits, 0x00 to 0x7F (R10, R74). -/
abbrev VAddr := BitVec 7

/-- A BUSTXN descriptor: 11 bits (R110, R121). -/
abbrev TxnWord := BitVec 11

/-- The 18 lanes of a PERM operand or result (R43); the length is part of the type (R255). -/
abbrev Lanes := Vector Word 18

/-- The four bytes of an FDEC operand, in arrival order, `b0` the most significant (R42). -/
structure FpBytes where
  b0 : Byte
  b1 : Byte
  b2 : Byte
  b3 : Byte
deriving DecidableEq, Repr, Inhabited

/-- What a transport failure carries, the open type `TERR` (R10, R275): a token that no rule reads.
DESIGN CHOICE, safe (log entry 3): a natural number names the failure. -/
structure TErr where
  token : Nat
deriving DecidableEq, Repr, Inhabited

end Sys2Proof
end

