-- ==== Sys2Proof/Config.lean ====
section
/-! DEFINITION. The parameters of R10, what the implementation fixes at power-up, and the free values: constants
with no body, which stand for what the spec leaves open, so that a claim holds whatever they are. -/

namespace Sys2Proof

/-- `POLL_LIMIT` (R10): the most status reads one polling loop may issue, or `INF`, the original's unbounded loop. -/
inductive PollLimit where
  | inf
  | reads (n : Nat)
deriving DecidableEq, Repr, Inhabited

/-- `FP_EDGE_MODE` (R10): the decoder's value when the exponent field is 0 or 255 (R225, R227). -/
inductive FpEdgeMode where
  | ieee
  | formula
deriving DecidableEq, Repr, Inhabited

/-- `DEVCODE` (R10): the 2-bit DEVSEL code of each die. -/
structure DevCodes where
  dev1 : BitVec 2
  dev2 : BitVec 2
  dev3 : BitVec 2
deriving DecidableEq, Repr, Inhabited

/-- The parameters of R10 that the spec leaves to the implementation. They are fixed for the block's whole life
(R39); State holds them, so that a statement about every state is one about every parameter (log entry 2). -/
structure Params where
  pollLimit : PollLimit
  pollDelay : Nat
  busAddr : BitVec 7
  devCode : DevCodes
  fpEdge : FpEdgeMode
  ltx : Nat
  lrx : Nat
deriving DecidableEq, Repr, Inhabited

/-- The environment's answer to one bus transaction (R13, R72). For a write the byte of `ok` means nothing. `reached`
says whether a transaction that returned `ERR` reached the device all the same, which no source says (R72, N9);
the block never sees it. -/
inductive BusAnswer where
  | ok (v : Byte)
  | err (info : TErr) (reached : Bool)
deriving DecidableEq, Repr, Inhabited

namespace Config

/-- `POLL_LIMIT − 1` at power-up, or none for `INF`: OPEN (R10, D6). -/
opaque pollBudget : Option Nat

/-- `POLL_DELAY` at power-up: OPEN (R10, D7). No rule reads it (R154, R325). -/
opaque pollDelay : Nat

/-- `BUS_ADDR` at power-up: OPEN (R10, D19). -/
opaque busAddr : BitVec 7

/-- FREE VALUE: the environment's answer, given the target, the register's offset, the transaction's descriptor and the
draw (R8, R70, R150). -/
opaque freeAnswer : BitVec 7 → Byte → TxnWord → Nat → BusAnswer

/-- FREE VALUE: a byte the device returns where no source gives it (R78, R79, R99, R100; I6, I7, I10, I11). -/
opaque freeByte : Nat → Byte

/-- FREE VALUE: bits [7:2] of DEVSEL read back (R208, I12). -/
opaque freeHigh : Nat → BitVec 6

/-- FREE VALUE: DEVSEL after a write of a byte that is no die's full code (R102, I12). -/
opaque freeCode : Nat → BitVec 2

/-- The parameters at power-up: the defaults R10 gives, and the open constants above (log entry 2). -/
def params : Params where
  pollLimit := match pollBudget with
    | none => .inf
    | some extra => .reads (extra + 1)
  pollDelay := pollDelay
  busAddr := busAddr
  devCode := ⟨0, 1, 2⟩
  fpEdge := .ieee
  ltx := 0
  lrx := 0

end Config

/-- What R10 demands of the open parameters: `POLL_LIMIT` ≥ 1 where finite, `DEVCODE` injective. -/
def Params.wf (p : Params) : Bool :=
  (match p.pollLimit with
    | .inf => true
    | .reads n => 1 ≤ n) &&
  p.devCode.dev1 != p.devCode.dev2 && p.devCode.dev1 != p.devCode.dev3 && p.devCode.dev2 != p.devCode.dev3

end Sys2Proof
end

