-- ==== Sys2Proof/Syntax.lean ====
section
/-! DEFINITION. The instructions of opcode_table.json (R143), one constructor a row; the requests that carry
the five operations (R40); the requester's assembler lines and pseudo-operations (R130, R140). -/

namespace Sys2Proof

/-- One constructor per row of the opcode table (R143). Every operand has exactly the width its encoding gives
it, so that every term is well formed by its type.

REQ rows run at the request port, BUSTXN rows are the block's bus transactions, CMD8 rows are the commands that
the device takes from its WRITE register. -/
inductive Instr where
  /-- VREAD, `readVirtualRegister(ADDR)` (R170). -/
  | vread (addr : VAddr)
  /-- VWRITE, `writeVirtualRegister(ADDR, DATA)` (R172). -/
  | vwrite (addr : VAddr) (data : Byte)
  /-- SELECT, `select(DEV)`; `dev` = 3 names no die and is well formed (R125, R200). -/
  | select (dev : BitVec 2)
  /-- FDEC, `decode(bytes[4])`; the operand travels with the request (R42, R220). -/
  | fdec (bytes : FpBytes)
  /-- PERM, `reorder(samples[18])`; the operand travels with the request (R43, R250). -/
  | perm (lanes : Lanes)
  /-- RDCMD, the wire read command `0 ‖ addr` (R177). -/
  | rdcmd (addr : VAddr)
  /-- WRCMD, the wire write command `1 ‖ addr` and its payload byte (R178). -/
  | wrcmd (addr : VAddr) (payload : Byte)
  /-- BUS_RD_STATUS, `BusRead(STATUS)` (R174). -/
  | busRdStatus
  /-- BUS_RD_READ, `BusRead(READ)` (R176). -/
  | busRdRead
  /-- BUS_WR_WRITE, `BusWrite(WRITE, data)` (R175). -/
  | busWrWrite (data : Byte)
deriving DecidableEq, Repr

/-- What stands at the request port (R40): the request word and the side-band operand lines. FDEC reads `bytes`
(R42), PERM reads `lanes` (R43), every other word reads neither (log entry 10). -/
structure Request where
  word : Word
  bytes : FpBytes
  lanes : Lanes
deriving DecidableEq, Repr

/-- One line of the requester's assembler (R130). Its numbers are as written, so a line may be out of range. -/
inductive AsmLine where
  | vrd (addr : Nat)
  | vwr (addr data : Nat)
  /-- `sel DEV1`, `sel DEV2`, `sel DEV3` are 0, 1, 2 and `sel #3` is 3. -/
  | sel (dev : Nat)
  | fdec (b0 b1 b2 b3 : Nat)
  | perm (lanes : List Nat)
deriving DecidableEq, Repr

/-- The pseudo-operations of R140, run by the requester. -/
inductive Pseudo where
  | rd16 (addr : Nat)
  | rdf (addr : Nat)
  | wrall (addr data : Nat)
deriving DecidableEq, Repr

end Sys2Proof
end

