-- ==== Sys2Proof/WellFormed.lean ====
section
/-! DEFINITION. The checks an assembler makes before it encodes (R130, R140): "An assembler refuses a line outside
these forms or constraints." An `Instr` needs no check: its operands have their encodings' widths. -/

namespace Sys2Proof

/-- The constraint column of R130's table. -/
def AsmLine.wellFormed : AsmLine → Bool
  | .vrd addr => addr ≤ 0x7F
  | .vwr addr data => addr ≤ 0x7F && data ≤ 0xFF
  | .sel dev => dev ≤ 3
  | .fdec b0 b1 b2 b3 => b0 ≤ 0xFF && b1 ≤ 0xFF && b2 ≤ 0xFF && b3 ≤ 0xFF
  | .perm lanes => lanes.length == 18 && lanes.all (· < 2 ^ 32)

/-- The constraint column of R140's table. -/
def Pseudo.wellFormed : Pseudo → Bool
  | .rd16 addr => addr ≤ 0x7E
  | .rdf addr => addr ≤ 0x7C
  | .wrall addr data => addr ≤ 0x7F && data ≤ 0xFF

end Sys2Proof
end

