-- ==== Sys2Proof/Decode.lean ====
section
/-! DEFINITION. The decoder of the three encodings of R110 (request words, wire commands, transaction descriptors),
total and rejecting by name, and the encoder written from the same tables. -/

namespace Sys2Proof

/-! ## What is decoded -/

/-- An instruction as its port carries it: a request at the request port, the bytes of one command in the WRITE
register's stream, or the descriptor of one bus transaction. -/
inductive Code where
  | req (r : Request)
  | cmd (bytes : List Byte)
  | txn (d : TxnWord)
deriving DecidableEq, Repr

/-- Why bits spell no instruction. The first three are R122's `ILLEGAL`. -/
inductive DecodeError where
  /-- `OP` is 5, 6 or 7 (R123). -/
  | reservedOpcode
  /-- `RSV` or `RSVW` is not 0 (R124). -/
  | reservedBits
  /-- A field that the operation requires to be 0 is not (R122, R124). -/
  | nonzeroField
  /-- No byte: no command has begun. -/
  | emptyCommand
  /-- A write command byte whose payload has not arrived (R98, R128). -/
  | awaitingPayload (addr : VAddr)
  /-- More bytes than bit 7 of the first one calls for (R128). -/
  | trailingBytes
  /-- A `DIR ‖ REG` the block never issues, or a read with nonzero `DATA` (R121). -/
  | reservedDescriptor
deriving DecidableEq, Repr

/-! ## Fields -/

/-- `REQ.OP`, bits [31:29] (R111). -/
def reqOp (w : Word) : BitVec 3 := w.extractLsb' 29 3
/-- `REQ.RSV`, bits [28:18]. -/
def reqRsv (w : Word) : BitVec 11 := w.extractLsb' 18 11
/-- `REQ.DEV`, bits [17:16]. -/
def reqDev (w : Word) : BitVec 2 := w.extractLsb' 16 2
/-- `REQ.RSVW`, bit [15]. -/
def reqRsvw (w : Word) : BitVec 1 := w.extractLsb' 15 1
/-- `REQ.ADDR`, bits [14:8]. -/
def reqAddr (w : Word) : VAddr := w.extractLsb' 8 7
/-- `REQ.DATA`, bits [7:0]. -/
def reqData (w : Word) : Byte := w.extractLsb' 0 8

/-- The write flag `W` of a command byte, bit [7] (R113). -/
def cmdIsWrite (b : Byte) : Bool := b.getLsbD 7
/-- `ADDR` of a command byte, bits [6:0] (R113). -/
def cmdAddr (b : Byte) : VAddr := b.extractLsb' 0 7

/-- `DIR ‖ REG` of a transaction descriptor, bits [10:8] (R121). -/
def txnKind (d : TxnWord) : BitVec 3 := d.extractLsb' 8 3
/-- `DATA` of a transaction descriptor, bits [7:0] (R121). -/
def txnData (d : TxnWord) : Byte := d.extractLsb' 0 8

/-! ## Decoding -/

/-- `Decode(w)` of R122, with its checks in its order; FDEC and PERM take their operand from the side-band lines. -/
def decodeReq (r : Request) : Except DecodeError Instr :=
  let w := r.word
  if reqOp w = 5 ∨ reqOp w = 6 ∨ reqOp w = 7 then .error .reservedOpcode
  else if reqRsv w ≠ 0 ∨ reqRsvw w ≠ 0 then .error .reservedBits
  else if reqOp w = 0 then
    if reqDev w ≠ 0 ∨ reqData w ≠ 0 then .error .nonzeroField else .ok (.vread (reqAddr w))
  else if reqOp w = 1 then
    if reqDev w ≠ 0 then .error .nonzeroField else .ok (.vwrite (reqAddr w) (reqData w))
  else if reqOp w = 2 then
    if reqAddr w ≠ 0 ∨ reqData w ≠ 0 then .error .nonzeroField else .ok (.select (reqDev w))
  else if reqDev w ≠ 0 ∨ reqAddr w ≠ 0 ∨ reqData w ≠ 0 then .error .nonzeroField
  else if reqOp w = 3 then .ok (.fdec r.bytes)
  else .ok (.perm r.lanes)

/-- One command of the WRITE register's stream: bit 7 of the first byte tells its length (R128). -/
def decodeCmd : List Byte → Except DecodeError Instr
  | [] => .error .emptyCommand
  | [b] => if cmdIsWrite b then .error (.awaitingPayload (cmdAddr b)) else .ok (.rdcmd (cmdAddr b))
  | [b, d] => if cmdIsWrite b then .ok (.wrcmd (cmdAddr b) d) else .error .trailingBytes
  | _ :: _ :: _ :: _ => .error .trailingBytes

/-- A transaction descriptor (R121): exactly three spell a transaction the block issues. -/
def decodeTxn (d : TxnWord) : Except DecodeError Instr :=
  if d = 0x000#11 then .ok .busRdStatus
  else if d = 0x200#11 then .ok .busRdRead
  else if txnKind d = 5 then .ok (.busWrWrite (txnData d))
  else .error .reservedDescriptor

/-- The decoder, total on every request, byte string and descriptor. -/
def decode : Code → Except DecodeError Instr
  | .req r => decodeReq r
  | .cmd bytes => decodeCmd bytes
  | .txn d => decodeTxn d

/-! ## Encoding -/

/-- The operand lines of a request whose operation takes no operand (log entry 10). -/
def zeroLanes : Lanes := Vector.replicate 18 0
/-- As `zeroLanes`, for FDEC's lines. -/
def zeroBytes : FpBytes := ⟨0, 0, 0, 0⟩

/-- The request word of R111 from its fields, the reserved fields 0. -/
def reqWord (op : BitVec 3) (dev : BitVec 2) (addr : VAddr) (data : Byte) : Word :=
  op ++ 0#11 ++ dev ++ 0#1 ++ addr ++ data

/-- The command byte of R113: `W ‖ ADDR`. The block drives `W` itself (R126). -/
def cmdByte (isWrite : Bool) (addr : VAddr) : Byte := BitVec.ofBool isWrite ++ addr

/-- The descriptor of R121. -/
def txnWord (kind : BitVec 3) (data : Byte) : TxnWord := kind ++ data

/-- A request that is one word and no operand. -/
def plainRequest (w : Word) : Request := ⟨w, zeroBytes, zeroLanes⟩

/-- The encoder, from the tables of R111 to R116 and R121. -/
def encode : Instr → Code
  | .vread addr => .req (plainRequest (reqWord 0 0 addr 0))
  | .vwrite addr data => .req (plainRequest (reqWord 1 0 addr data))
  | .select dev => .req (plainRequest (reqWord 2 dev 0 0))
  | .fdec bytes => .req ⟨reqWord 3 0 0 0, bytes, zeroLanes⟩
  | .perm lanes => .req ⟨reqWord 4 0 0 0, zeroBytes, lanes⟩
  | .rdcmd addr => .cmd [cmdByte false addr]
  | .wrcmd addr payload => .cmd [cmdByte true addr, payload]
  | .busRdStatus => .txn (txnWord 0 0)
  | .busRdRead => .txn (txnWord 2 0)
  | .busWrWrite data => .txn (txnWord 5 data)

/-! ## The assembler of R130 -/

/-- The request one line encodes to, or none where the assembler refuses the line. -/
def assemble (line : AsmLine) : Option Request :=
  if line.wellFormed then
    match line with
    | .vrd addr => some (plainRequest (BitVec.ofNat 32 (0x00000000 + addr * 2 ^ 8)))
    | .vwr addr data => some (plainRequest (BitVec.ofNat 32 (0x20000000 + addr * 2 ^ 8 + data)))
    | .sel dev => some (plainRequest (BitVec.ofNat 32 (0x40000000 + dev * 2 ^ 16)))
    | .fdec b0 b1 b2 b3 =>
      some ⟨0x60000000#32, ⟨BitVec.ofNat 8 b0, BitVec.ofNat 8 b1, BitVec.ofNat 8 b2, BitVec.ofNat 8 b3⟩, zeroLanes⟩
    | .perm lanes => some ⟨0x80000000#32, zeroBytes, Vector.ofFn fun j => BitVec.ofNat 32 (lanes.getD j 0)⟩
  else none

/-! ## The opcode table -/

/-- The bits of a code, numbered as opcode_table.json numbers them: a later byte's bits count on from the first's. -/
def Code.tableBits : Code → Nat
  | .req r => r.word.toNat
  | .cmd bytes => bytes.foldr (fun b rest => b.toNat + 2 ^ 8 * rest) 0
  | .txn d => d.toNat

/-- The `match` and `mask` columns of R143 and the row's width in bits. -/
structure TableRow where
  width : Nat
  pattern : Nat
  mask : Nat
deriving DecidableEq, Repr

/-- The row of the opcode table that an instruction belongs to (R143). -/
def Instr.tableRow : Instr → TableRow
  | .vread _ => ⟨32, 0x00000000, 0xFFFF80FF⟩
  | .vwrite _ _ => ⟨32, 0x20000000, 0xFFFF8000⟩
  | .select _ => ⟨32, 0x40000000, 0xFFFCFFFF⟩
  | .fdec _ => ⟨32, 0x60000000, 0xFFFFFFFF⟩
  | .perm _ => ⟨32, 0x80000000, 0xFFFFFFFF⟩
  | .rdcmd _ => ⟨8, 0x00, 0x80⟩
  | .wrcmd _ _ => ⟨16, 0x80, 0x80⟩
  | .busRdStatus => ⟨11, 0x000, 0x7FF⟩
  | .busRdRead => ⟨11, 0x200, 0x7FF⟩
  | .busWrWrite _ => ⟨11, 0x500, 0x700⟩

/-- The two bytes of a CMD8 + PAY8 row, first byte lowest. -/
def commandOfBits (w : Nat) : Option Instr :=
  (decodeCmd [BitVec.ofNat 8 w, BitVec.ofNat 8 (w / 2 ^ 8)]).toOption

/-- The instruction the decoder reads from a table row's bits. The row's width tells its format: up to 8 bits a
CMD8 row (a write command's missing payload is 0), up to 16 a BUSTXN or a CMD8 + PAY8 row, up to 32 a REQ word.
Between the two formats of up to 16 bits the descriptor wins; the only words in both are `0x05dd` with bit 7 of
`dd` set, which are also write commands with payload 5 (log entry 11). -/
def decodeTableWord (nbits w : Nat) : Option Instr :=
  if nbits ≤ 8 then
    if w < 2 ^ 8 then
      if cmdIsWrite (BitVec.ofNat 8 w) then commandOfBits w else (decodeCmd [BitVec.ofNat 8 w]).toOption
    else none
  else if nbits ≤ 16 then
    if w < 2 ^ 11 then
      match decodeTxn (BitVec.ofNat 11 w) with
      | .ok i => some i
      | .error _ => commandOfBits w
    else if w < 2 ^ 16 then commandOfBits w
    else none
  else if nbits ≤ 32 then
    if w < 2 ^ 32 then (decodeReq (plainRequest (BitVec.ofNat 32 w))).toOption else none
  else none

end Sys2Proof
end

