-- ==== Sys2Proof/Machine/State.lean ====
section
/-! DEFINITION. The state of the block (10_state.md), of the environment (R49, R104) and of the requester's port
(R40), the outcomes a step can end in, and the state right after reset. All of it is plain data. -/

namespace Sys2Proof.Machine

/-! ## The block, `S` of R30 -/

/-- `S.phase` (R31): the state of the handshake state machine, in place of a program counter. -/
inductive Phase where
  | idle
  | rdStaleStat
  | rdStaleDiscard
  | rdPollTx
  | rdCmd
  | rdPollRx
  | rdFetch
  | wrPollTx1
  | wrCmd
  | wrPollTx2
  | wrData
deriving DecidableEq, Repr, Inhabited

/-- `S.op` (R33): the latched operation. FDEC and PERM latch nothing, so only three operations can be latched. -/
inductive LatchedOp where
  | vread
  | vwrite
  | select
deriving DecidableEq, Repr, Inhabited

/-- The response codes of R271. `invalidParameter` is reserved and never raised (R274). -/
inductive RespCode where
  | ok
  | timeoutRdTx
  | timeoutRdRx
  | timeoutWrAddr
  | timeoutWrData
  | invalidDevice
  | invalidParameter
  | transportError
  | illegalRequest
deriving DecidableEq, Repr, Inhabited

/-- `S.lasterr` (R36): the outcome of the most recent completed operation. `phase` is `idle` (its code is 0) for
`OK` and for errors raised at acceptance. -/
structure LastErr where
  code : RespCode
  phase : Phase
  polls : Nat
  info : Option TErr
deriving DecidableEq, Repr, Inhabited

/-- The block's state `S`, exactly the fields of R30. The latched request fields are absent until a request is
latched: "A model represents them as absent" (R33). -/
structure Block where
  phase : Phase
  op : Option LatchedOp
  addr : Option VAddr
  data : Option Byte
  dev : Option (BitVec 2)
  pcnt : Nat
  sel : BitVec 2
  lasterr : LastErr
deriving DecidableEq, Repr, Inhabited

/-! ## Responses (R41) and the decoder's result record (R220) -/

/-- The class of a float word (R223). -/
inductive FpClass where
  | normal
  | zero
  | subnormal
  | inf
  | nan
deriving DecidableEq, Repr, Inhabited

/-- An exact rational (R16) in lowest terms: `num / den`. -/
structure Ratio where
  num : Int
  den : Nat
deriving DecidableEq, Repr, Inhabited

/-- The decoder's mathematical result (R16): an exact rational or one of the symbols `+0`, `-0`, `+INF`, `-INF`,
`NaN(payload)`; `neg` is the sign bit. -/
inductive FpValue where
  | exact (q : Ratio)
  | signedZero (neg : Bool)
  | infinite (neg : Bool)
  | nan (neg : Bool) (payload : BitVec 23)
deriving DecidableEq, Repr, Inhabited

/-- The result record `fp` of R220. -/
structure FpResult where
  word : Word
  sign : BitVec 1
  exp : BitVec 8
  frac : BitVec 23
  cls : FpClass
  edge : Bool
  value : FpValue
deriving DecidableEq, Repr, Inhabited

/-- A response (R41). A field that R41 does not make present is absent. -/
structure Response where
  code : RespCode
  rdata : Option Byte
  fp : Option FpResult
  vec : Option Lanes
  errphase : Phase
  errpolls : Nat
  info : Option TErr
deriving DecidableEq, Repr, Inhabited

/-! ## The trace (R15) -/

/-- The bus registers (R70). -/
inductive BusReg where
  | status
  | write
  | read
deriving DecidableEq, Repr, Inhabited

/-- The direction of a bus transaction. -/
inductive Dir where
  | rd
  | wr
deriving DecidableEq, Repr, Inhabited

/-- The events of R15. -/
inductive Event where
  /-- `Rd(r, v)`: a bus read that returned `v`. -/
  | rd (r : BusReg) (v : Byte)
  /-- `Wr(r, v)`: a bus write of `v`. -/
  | wr (r : BusReg) (v : Byte)
  /-- `TErr(r, dir, info)`: a transaction that failed. -/
  | terr (r : BusReg) (dir : Dir) (info : TErr)
  /-- `Dly`: an inter-poll delay. -/
  | dly
deriving DecidableEq, Repr, Inhabited

/-! ## The environment -/

/-- The three dies (R209). -/
inductive Die where
  | dev1
  | dev2
  | dev3
deriving DecidableEq, Repr, Inhabited

/-- The in-flight command slot (R49). -/
inductive Slot where
  | empty
  /-- A read of `addr`, its command byte consumed. -/
  | rd (addr : VAddr)
  /-- A write of `addr`, awaiting its payload. -/
  | wr (addr : VAddr)
deriving DecidableEq, Repr, Inhabited

/-- Memory as a list of cells, in the canonical form `Memory.wf` (Machine/Memory.lean). -/
abbrev Memory := List Host.Cell

/-- The sensor device (R49) and the reference device's counters (R104). `inbound` is the byte in WRITE that the device
has not consumed, which `TX_VALID` shows (R46); `outbound` is the byte in READ, which `RX_VALID` shows (R45). -/
structure Device where
  /-- STATUS bits [7:2], whose contents no source gives (R44; log entry 29). -/
  statusHi : BitVec 6
  inbound : Option Byte
  outbound : Option Byte
  slot : Slot
  /-- The shared register at virtual address 0x4F (R79). -/
  devsel : BitVec 2
  /-- The virtual registers of the three dies (R74), keyed as Machine/Memory.lean says. -/
  vreg : Memory
  txb : Nat
  rxw : Nat
deriving DecidableEq, Repr, Inhabited

/-- Which environment answers the bus (R8; log entry 5). -/
inductive EnvKind where
  /-- Any answer to any transaction (R8). -/
  | oracle
  /-- The device of R49 under the obligations R96 to R103. -/
  | device
  /-- The deterministic reference device of R104. -/
  | reference
deriving DecidableEq, Repr, Inhabited

/-! ## The state -/

/-- What happens next (log entry 1). -/
inductive Input where
  /-- The block takes a step (R150, R151). -/
  | blockMoves
  /-- The device makes progress on a byte or a command it holds (R97, R98). -/
  | deviceMoves
  /-- The device changes on its own, or another agent changes it (R101, R103, R312, R314; log entry 27). -/
  | deviceChanges (d : Device)
  /-- The requester offers one more request (R40). -/
  | offer (r : Request)
  /-- Block reset (R310). -/
  | reset
deriving DecidableEq, Repr

/-- The machine: parameters, block, port, environment, and the record of what it did. `trace` and `responses` are
newest first (log entry 8); `port`, `answers` and `inputs` are oldest first. -/
structure State where
  params : Params
  blk : Block
  port : List Request
  responses : List Response
  trace : List Event
  env : EnvKind
  answers : List BusAnswer
  dev : Device
  inputs : List Input
  fresh : Nat
deriving DecidableEq, Repr

/-! ## How a step can stop -/

/-- A latched request field (R33). -/
inductive LatchField where
  | op
  | addr
  | data
  | dev
deriving DecidableEq, Repr, Inhabited

/-- The faults. -/
inductive Fault where
  /-- A phase rule reads a latched request field that holds no value. Raised by the fetch of `RD_CMD`, `WR_CMD` and
  `WR_DATA` and by `Complete`, in states no run reaches: "no rule reads an absent value" (R33). Safe. -/
  | absentLatch (field : LatchField)
deriving DecidableEq, Repr

/-- The refusals. -/
inductive Refusal where
  /-- Raised by `exec` for an instruction that has no meaning yet. Safe. No arm raises it. -/
  | notModelled (mnemonic : String)
deriving DecidableEq, Repr

/-! ## Reset -/

/-- The reset values of R30. -/
def Block.reset : Block where
  phase := .idle
  op := none
  addr := none
  data := none
  dev := none
  pcnt := 0
  sel := 3
  lasterr := ⟨.ok, .idle, 0, none⟩

/-- The device at start. No source gives its state (R312, I15): DESIGN CHOICE, unsafe (log entries 6, 7). -/
def Device.atStart : Device where
  statusHi := 0
  inbound := none
  outbound := none
  slot := .empty
  devsel := 0
  vreg := []
  txb := 0
  rxw := 0

/-- The machine right after reset (R310, R311): the block's fields as R30 says, nothing offered, nothing done. -/
def State.reset : State where
  params := Config.params
  blk := Block.reset
  port := []
  responses := []
  trace := []
  env := .oracle
  answers := []
  dev := Device.atStart
  inputs := []
  fresh := 0

end Sys2Proof.Machine
end

