-- ==== Sys2Proof/Machine/Memory.lean ====
section
/-! DEFINITION. The three dies' virtual register files (R74) as one memory in canonical form. -/

namespace Sys2Proof.Machine

/-- What a register that nothing has written reads as. No source gives it (R312): DESIGN CHOICE, unsafe (log entry 7).
The test programs of 95_test_vectors.md use the same value: "All registers not listed are 0". -/
def Memory.unlisted : Byte := 0

/-- The value of the cell at key `k`. -/
def Memory.read : Memory → Nat → Byte
  | [], _ => Memory.unlisted
  | (a, v) :: rest, k => if a = k then v else Memory.read rest k

/-- A cell list entry, or none where it says what an unlisted cell says. -/
def Memory.entry (k : Nat) (v : Byte) : Memory := if v = Memory.unlisted then [] else [(k, v)]

/-- Write the cell at key `k`, keeping the canonical form. -/
def Memory.write : Memory → Nat → Byte → Memory
  | [], k, v => Memory.entry k v
  | (a, x) :: rest, k, v =>
    if k < a then Memory.entry k v ++ (a, x) :: rest
    else if k = a then Memory.entry k v ++ rest
    else (a, x) :: Memory.write rest k v

/-- Every key is above `lo`, keys rise strictly and stay below `hi`, and no cell says what an unlisted one says. -/
def Memory.risesAbove (hi : Nat) : Option Nat → Memory → Bool
  | _, [] => true
  | lo, (a, v) :: rest =>
    (match lo with
      | none => true
      | some l => l < a) &&
    a < hi && v != Memory.unlisted && Memory.risesAbove hi (some a) rest

/-- The number of keys: three dies of 128 registers (R74). -/
def Memory.size : Nat := 3 * 128

/-- The canonical form. -/
def Memory.wf (m : Memory) : Bool := Memory.risesAbove Memory.size none m

/-- The place of a die's register file. -/
def Die.index : Die → Nat
  | .dev1 => 0
  | .dev2 => 1
  | .dev3 => 2

/-- The key of virtual register `a` of a die. -/
def vregKey (die : Die) (a : VAddr) : Nat := die.index * 128 + a.toNat

/-- The virtual address of the shared DEVSEL register (R79). -/
def devselAddr : VAddr := 0x4F

/-- The addresses of the register map (R75). The others have no meaning in any source (R78). -/
def isListed (a : VAddr) : Bool :=
  a.toNat = 0x00 || a.toNat = 0x01 || (0x04 ≤ a.toNat && a.toNat ≤ 0x2B) || a.toNat = 0x4F

end Sys2Proof.Machine
end

