-- ==== Sys2Proof/Machine/Operands.lean ====
section
/-! DEFINITION. Operand assembly (R127): "No field is sign-extended, scaled or shifted except as listed." The command
bytes are `cmdByte` of Decode.lean. -/

namespace Sys2Proof.Machine

/-- The die a DeviceId names (R111): 0, 1, 2; 3 names none (R125). -/
def dieOfId (dev : BitVec 2) : Option Die :=
  if dev = 0 then some .dev1 else if dev = 1 then some .dev2 else if dev = 2 then some .dev3 else none

/-- `DEVCODE` of a die (R10). -/
def codeOfDie (codes : DevCodes) : Die → BitVec 2
  | .dev1 => codes.dev1
  | .dev2 => codes.dev2
  | .dev3 => codes.dev3

/-- The DEVSEL payload `zext_8(DEVCODE(die))` (R118, R201). -/
def devselPayload (codes : DevCodes) (die : Die) : Byte := 0#6 ++ codeOfDie codes die

/-- The die whose `DEVCODE` equals DEVSEL (R79), or none where DEVSEL holds a code no die has. -/
def routedDie (codes : DevCodes) (devsel : BitVec 2) : Option Die :=
  if codes.dev1 = devsel then some .dev1
  else if codes.dev2 = devsel then some .dev2
  else if codes.dev3 = devsel then some .dev3
  else none

/-- A DEVSEL payload that is the full code of some die (R102). -/
def isFullCode (codes : DevCodes) (b : Byte) : Bool :=
  b == devselPayload codes .dev1 || b == devselPayload codes .dev2 || b == devselPayload codes .dev3

/-- The float word, `B[0]` most significant (R83, R119, R221). -/
def floatWord (b : FpBytes) : Word := b.b0 ++ b.b1 ++ b.b2 ++ b.b3

/-- A RawSample, high byte first (R82, R120). -/
def rawSample (hi lo : Byte) : BitVec 16 := hi ++ lo

/-- The address of byte `low` (0 high, 1 low) of raw pair `k` of a die (R76). -/
def rawPairAddr (k : Fin 6) (low : Fin 2) : VAddr := BitVec.ofNat 7 (0x08 + 2 * k.val + low.val)

/-- The address of byte `i` of calibrated quad `k` of a die (R77, R83). -/
def calQuadAddr (k : Fin 6) (i : Fin 4) : VAddr := BitVec.ofNat 7 (0x14 + 4 * k.val + i.val)

end Sys2Proof.Machine
end

