-- ==== Sys2Proof/Machine/Flags.lean ====
section
/-! DEFINITION. The flags: the two STATUS bits the block examines (R47, R117), `BUSY` (R32), the numeric codes of phases
(R31), responses (R271) and bus registers (R10, R70, R121), and the status word `BLKSTAT` (R38). -/

namespace Sys2Proof.Machine

/-- `RX_VALID`, STATUS bit 0: the ready condition `RXready(s) = (s[0] = 1)` (R45, R152). -/
def rxReady (status : Byte) : Bool := status.getLsbD 0

/-- The ready condition `TXready(s) = (s[1] = 0)`: `TX_VALID`, STATUS bit 1, is clear (R46, R152). -/
def txReady (status : Byte) : Bool := !status.getLsbD 1

/-- A STATUS byte from its parts (R117). -/
def statusByte (hi : BitVec 6) (txValid rxValid : Bool) : Byte := hi ++ BitVec.ofBool txValid ++ BitVec.ofBool rxValid

/-- `BUSREG` (R10, R70): the offset of a bus register in the bus register space. -/
def BusReg.offset : BusReg → Byte
  | .status => 0x00
  | .write => 0x01
  | .read => 0x02

/-- `REG` of a transaction descriptor (R121). -/
def BusReg.code : BusReg → BitVec 2
  | .status => 0
  | .write => 1
  | .read => 2

/-- `DIR` of a transaction descriptor (R121). -/
def Dir.code : Dir → BitVec 1
  | .rd => 0
  | .wr => 1

/-- The descriptor `DIR ‖ REG ‖ DATA` of a transaction (R121). -/
def busDescriptor (dir : Dir) (r : BusReg) (data : Byte) : TxnWord := txnWord (dir.code ++ r.code) data

/-- R31's encoding of a phase. -/
def Phase.code : Phase → BitVec 4
  | .idle => 0
  | .rdStaleStat => 1
  | .rdStaleDiscard => 2
  | .rdPollTx => 3
  | .rdCmd => 4
  | .rdPollRx => 5
  | .rdFetch => 6
  | .wrPollTx1 => 7
  | .wrCmd => 8
  | .wrPollTx2 => 9
  | .wrData => 10

/-- `S.op` as the request word encodes it (R112). -/
def LatchedOp.code : LatchedOp → BitVec 3
  | .vread => 0
  | .vwrite => 1
  | .select => 2

/-- The number of a response code (R271). -/
def RespCode.code : RespCode → BitVec 4
  | .ok => 0
  | .timeoutRdTx => 1
  | .timeoutRdRx => 2
  | .timeoutWrAddr => 3
  | .timeoutWrData => 4
  | .invalidDevice => 5
  | .invalidParameter => 6
  | .transportError => 7
  | .illegalRequest => 8

/-- `BUSY` (R32): not stored, `S.phase ≠ IDLE`. -/
def Block.busy (b : Block) : Bool := b.phase != .idle

/-- The port's `ready` (R40). -/
def Block.ready (b : Block) : Bool := !b.busy

/-- `BLKSTAT` (R38): read-only, at any time, without a step. -/
def Block.blkstat (b : Block) : Word :=
  0#14 ++ b.sel ++ b.lasterr.phase.code ++ b.lasterr.code.code ++ 0#3 ++ BitVec.ofBool b.busy ++ b.phase.code

/-- The phases of the four polling loops (R34, R152). -/
def Phase.isPolling : Phase → Bool
  | .rdPollTx | .rdPollRx | .wrPollTx1 | .wrPollTx2 => true
  | .idle | .rdStaleStat | .rdStaleDiscard | .rdCmd | .rdFetch | .wrCmd | .wrData => false

/-- `S.sel` = `NONE` (R35). -/
def selNone : BitVec 2 := 3

end Sys2Proof.Machine
end

