-- ==== Sys2Proof/Machine/Ops.lean ====
section
/-! DEFINITION. The shared operations: state updates, the end of an operation, and with it the one error mechanism of
the block (R270): `abort` (R165), the errors at acceptance (R273, R277), and `complete` (R166). There is no return from
an error: the block is in `IDLE` and takes the next request (R280). -/

namespace Sys2Proof.Machine

/-! ## Updates -/

/-- Append one event to the trace (R15). -/
def State.emit (e : Event) (s : State) : State := { s with trace := e :: s.trace }

/-- Replace the block's state. -/
def State.setBlk (b : Block) (s : State) : State := { s with blk := b }

/-- Replace the device's state. -/
def State.setDev (d : Device) (s : State) : State := { s with dev := d }

/-- Hand the rest of the bus over to the oracle: "any value for every later device answer" (I10; log entry 15). -/
def State.toOracle (s : State) : State := { s with env := .oracle }

/-- The next free value has been drawn (log entry 25). -/
def State.draw (s : State) : State := { s with fresh := s.fresh + 1 }

/-- Enter a phase that is no polling phase (`S.phase <- p`, R14). -/
def State.goto (p : Phase) (s : State) : State := s.setBlk { s.blk with phase := p }

/-- Enter a phase with `S.pcnt <- 0` (R34). -/
def State.enter (p : Phase) (s : State) : State := s.setBlk { s.blk with phase := p, pcnt := 0 }

/-! ## The end of an operation -/

/-- Write `S.lasterr` (R36) and deliver the response with the same values (R41, R276). -/
def State.endOperation (le : LastErr) (rdata : Option Byte) (fp : Option FpResult) (vec : Option Lanes) (s : State) :
    State :=
  { s with
    blk := { s.blk with lasterr := le }
    responses := ⟨le.code, rdata, fp, vec, le.phase, le.polls, le.info⟩ :: s.responses }

/-- The record of an operation that ended with `OK`. -/
def okRecord : LastErr := ⟨.ok, .idle, 0, none⟩

/-- `Abort(code, polls, info)` (R165): the failing phase is recorded, the block returns to `IDLE`, `S.sel` and the
latched fields are kept. -/
def State.abort (code : RespCode) (polls : Nat) (info : Option TErr) (s : State) : State :=
  (s.endOperation ⟨code, s.blk.phase, polls, info⟩ none none none).enter .idle

/-- An error raised at decode or acceptance (R273, R277): phase 0, polls 0, no info, `S.phase` stays `IDLE`. -/
def State.reject (code : RespCode) (s : State) : State := s.endOperation ⟨code, .idle, 0, none⟩ none none none

/-- The completion effect of `S.op` on `S.sel`: VREAD none (R166), VWRITE to 0x4F `NONE` (R204), SELECT `S.dev` (R202).
A latched field it reads that holds no value is named. -/
def Block.completionSel (b : Block) : Except LatchField (BitVec 2) :=
  match b.op with
  | none => .error .op
  | some .vread => .ok b.sel
  | some .vwrite =>
    match b.addr with
    | none => .error .addr
    | some a => .ok (if a = devselAddr then selNone else b.sel)
  | some .select =>
    match b.dev with
    | none => .error .dev
    | some d => .ok d

/-- `Complete(rdata?)` (R166). -/
def State.complete (rdata : Option Byte) (s : State) : Host.Outcome State Fault Refusal :=
  match s.blk.completionSel with
  | .error field => .fault (.absentLatch field)
  | .ok sel => .next (((s.setBlk { s.blk with sel := sel }).endOperation okRecord rdata none none).enter .idle)

/-! ## Acceptance and reset -/

/-- Run an operation's acceptance clause in `IDLE` (R151). While the block is busy it accepts nothing and the request
stays held (R40; log entry 14). -/
def State.accept (clause : State → State) (s : State) : Host.Outcome State Fault Refusal :=
  if s.blk.busy then .next s else .next (clause s)

/-- Block reset (R310): every field of `S` at its reset value; no response, no bus transaction, no change to the
device, the parameters, the port or what was recorded. -/
def State.blockReset (s : State) : State := s.setBlk Block.reset

end Sys2Proof.Machine
end

