-- ==== Sys2Proof/Machine/FpDecode.lean ====
section
/-! DEFINITION. The floating-point decoder FDEC (42_fpdecode.md). It is exact: nothing is rounded (R226). -/

namespace Sys2Proof.Machine

/-- `W[31]` (R222). -/
def fpSign (w : Word) : BitVec 1 := w.extractLsb' 31 1
/-- `W[30:23]`. -/
def fpExp (w : Word) : BitVec 8 := w.extractLsb' 23 8
/-- `W[22:0]`. -/
def fpFrac (w : Word) : BitVec 23 := w.extractLsb' 0 23

/-- `Classify(e, f)` (R223). -/
def classify (e : BitVec 8) (f : BitVec 23) : FpClass :=
  if e = 0 then (if f = 0 then .zero else .subnormal)
  else if e = 255 then (if f = 0 then .inf else .nan)
  else .normal

/-- `(−1)^neg × m × 2^k` as an exact rational in lowest terms (R16). -/
def scaled (neg : Bool) (m : Nat) (k : Int) : Ratio :=
  let sign : Int := if neg then -1 else 1
  match k with
  | .ofNat up => ⟨sign * (m * 2 ^ up : Nat), 1⟩
  | .negSucc down =>
    let d := 2 ^ (down + 1)
    let g := Nat.gcd m d
    ⟨sign * (m / g : Nat), d / g⟩

/-- The reconstruction formula `(−1)^s × (2^23 + f) × 2^(e − 150)` (R224). -/
def formula (neg : Bool) (e : BitVec 8) (f : BitVec 23) : Ratio :=
  scaled neg (2 ^ 23 + f.toNat) ((e.toNat : Int) - 150)

/-- The value under `FP_EDGE_MODE = IEEE` (R224, R225). -/
def ieeeValue (neg : Bool) (e : BitVec 8) (f : BitVec 23) : FpClass → FpValue
  | .normal => .exact (formula neg e f)
  | .zero => .signedZero neg
  | .subnormal => .exact (scaled neg f.toNat (-149))
  | .inf => .infinite neg
  | .nan => .nan neg f

/-- `Value(s, e, f, cls, FP_EDGE_MODE)` (R224, R225, R227). -/
def fpValue (mode : FpEdgeMode) (neg : Bool) (e : BitVec 8) (f : BitVec 23) (cls : FpClass) : FpValue :=
  match mode with
  | .ieee => ieeeValue neg e f cls
  | .formula => .exact (formula neg e f)

/-- The result record of a float word (R220). -/
def decodeFloat (mode : FpEdgeMode) (w : Word) : FpResult where
  word := w
  sign := fpSign w
  exp := fpExp w
  frac := fpFrac w
  cls := classify (fpExp w) (fpFrac w)
  edge := fpExp w = 0 || fpExp w = 255
  value := fpValue mode (fpSign w = 1) (fpExp w) (fpFrac w) (classify (fpExp w) (fpFrac w))

/-- FDEC (R220): the whole operation in the accepting step; no bus traffic, `S.phase` stays `IDLE`. -/
def execFdec (bytes : FpBytes) (s : State) : Host.Outcome State Fault Refusal :=
  s.accept fun s => s.endOperation okRecord none (some (decodeFloat s.params.fpEdge (floatWord bytes))) none

end Sys2Proof.Machine
end

