-- ==== Sys2Proof/Machine/Device.lean ====
section
/-! DEFINITION. The device's side: routing (R79), what a wire read and a wire write command do (R97, R98), the meanings
of RDCMD and WRCMD, and the reference device's timing (R104). -/

namespace Sys2Proof.Machine

/-! ## One virtual register -/

/-- An access to `a` has an effect the spec gives: `a` is the shared DEVSEL, or a die is routed and, where the device
is not the reference device, the address is in the map (R78, R79; log entry 16). -/
def State.reaches (a : VAddr) (s : State) : Option Die :=
  match routedDie s.params.devCode s.dev.devsel with
  | none => none
  | some die => if s.env = .reference || isListed a then some die else none

/-- The byte a read of virtual address `a` gives (R79, `readv` of R104). DEVSEL is zero-extended by the reference device;
otherwise its bits [7:2] are free (R208, I12). A register no source speaks of is free (I6, I7). -/
def State.readVirtual (a : VAddr) (s : State) : Byte :=
  if a = devselAddr then
    (if s.env = .reference then 0#6 else Config.freeHigh s.fresh) ++ s.dev.devsel
  else
    match s.reaches a with
    | none => Config.freeByte s.fresh
    | some die => s.dev.vreg.read (vregKey die a)

/-- DEVSEL after a write of `b` to 0x4F: a die's full code takes effect (R102), any other byte leaves a free code (I12);
the reference device takes `b[1:0]` (R104). -/
def State.nextDevsel (b : Byte) (s : State) : BitVec 2 :=
  if s.env = .reference || isFullCode s.params.devCode b then b.extractLsb' 0 2 else Config.freeCode s.fresh

/-- Write `b` to virtual address `a` (R79, R98). A write that reaches a register no source speaks of may have any device
effect (I6, I7): from then on the bus is the oracle's (log entry 16). That the byte stays there and a later read gives it is the model's choice for the devices of R49: no
law links the two (R91, I9; DESIGN CHOICE, log entry 33), and `deviceChanges` or the oracle breaks the link. -/
def State.writeVirtual (a : VAddr) (b : Byte) (s : State) : State :=
  if a = devselAddr then s.setDev { s.dev with devsel := s.nextDevsel b }
  else
    match s.reaches a with
    | none => s.toOracle
    | some die => s.setDev { s.dev with vreg := s.dev.vreg.write (vregKey die a) b }

/-! ## The wire commands -/

/-- Place a byte in READ, so that `RX_VALID` is set (R97). A byte still there is overwritten by the reference device
(R104); otherwise no source says which byte READ then holds, so it is free (I10; log entry 18). The reference device
starts its latency count. -/
def State.placeByte (v : Byte) (s : State) : State :=
  if s.env = .reference then s.setDev { s.dev with outbound := some v, rxw := s.params.lrx }
  else s.setDev { s.dev with outbound := some (if s.dev.outbound = none then v else Config.freeByte (s.fresh + 1)) }

/-- The device carries out a wire read command of `a` (R97): the slot is free again and READ holds the byte. -/
def State.serveRead (a : VAddr) (s : State) : State :=
  let s' := s.placeByte (s.readVirtual a)
  (s'.setDev { s'.dev with slot := .empty }).draw.draw

/-- The device carries out a wire write command of `a` with payload `b` (R98): the payload is consumed, the slot is free
again, no acknowledgement is placed. -/
def State.serveWrite (a : VAddr) (b : Byte) (s : State) : State :=
  let s' := s.writeVirtual a b
  (s'.setDev { s'.dev with slot := .empty, inbound := none }).draw

/-- RDCMD (R177): "Its meaning to the device is 20_memory.md rule R97." -/
def execRdcmd (a : VAddr) (s : State) : Host.Outcome State Fault Refusal := .next (s.serveRead a)

/-- WRCMD (R178): "Its meaning to the device is 20_memory.md rule R98." -/
def execWrcmd (a : VAddr) (b : Byte) (s : State) : Host.Outcome State Fault Refusal := .next (s.serveWrite a b)

/-! ## Bytes arriving at the device of R49 -/

/-- The slot after the device consumes a command byte (R97, R98, R128). -/
def slotOfCommand (b : Byte) : Slot := if cmdIsWrite b then .wr (cmdAddr b) else .rd (cmdAddr b)

/-- A byte reaches WRITE. While the last one is not consumed this is the protocol violation of R99, after which every
device answer is free (I10; log entry 15). -/
def State.receive (b : Byte) (s : State) : State :=
  match s.dev.inbound with
  | none => s.setDev { s.dev with inbound := some b }
  | some _ => s.toOracle

/-! ## The reference device (R104) -/

/-- STATUS of the reference device. -/
def Device.refStatus (d : Device) : Byte :=
  statusByte 0 (0 < d.txb) (d.outbound.isSome && d.rxw = 0)

/-- One status read is one unit of its progress. -/
def Device.refTick (d : Device) : Device :=
  { d with txb := d.txb - 1, rxw := if d.outbound.isSome then d.rxw - 1 else d.rxw }

/-- Its `BusWrite(WRITE, b)`, with `txb = 0`. -/
def State.refReceive (b : Byte) (s : State) : State :=
  let s' :=
    match s.dev.slot with
    | .wr a => s.serveWrite a b
    | .empty | .rd _ =>
      if cmdIsWrite b then s.setDev { s.dev with slot := .wr (cmdAddr b) } else s.serveRead (cmdAddr b)
  s'.setDev { s'.dev with txb := s.params.ltx }

end Sys2Proof.Machine
end

