-- ==== Sys2Proof/Machine/Bus.lean ====
section
/-! DEFINITION. The bus primitives (R13, R72): one single-byte transaction, answered by the environment and recorded in
the trace (R15). None of them writes block state (R174 to R176). -/

namespace Sys2Proof.Machine

/-- The oracle's answer (R8): the next scripted one, or a free value (log entry 4). The transport is given the target
`BUS_ADDR`, which the block never interprets (R73), the register's offset there (R70) and the transaction's descriptor. -/
def State.oracleAnswer (dir : Dir) (r : BusReg) (data : Byte) (s : State) : BusAnswer × State :=
  match s.answers with
  | a :: rest => (a, { s with answers := rest })
  | [] => (Config.freeAnswer s.params.busAddr r.offset (busDescriptor dir r data) s.fresh, s.draw)

/-- The transport's failure of the next transaction with the device of R49, if the script holds one: "`ERR` may occur at
any transaction" (R72, R275; log entry 28). -/
def State.nextFailure (s : State) : Option (TErr × Bool) :=
  match s.answers with
  | .err info reached :: _ => some (info, reached)
  | .ok _ :: _ | [] => none

/-- The script moves on by one transaction. -/
def State.dropAnswer (s : State) : State := { s with answers := s.answers.tail }

/-- The event of a read of `r` (R15). -/
def readEvent (r : BusReg) : BusAnswer → Event
  | .ok v => .rd r v
  | .err info _ => .terr r .rd info

/-- The event of a write of `b` to WRITE. -/
def writeEvent (b : Byte) : BusAnswer → Event
  | .ok _ => .wr .write b
  | .err info _ => .terr .write .wr info

/-- The environment's answer to `BusRead(STATUS)`. It changes no device register (R87). -/
def State.answerStatus (s : State) : BusAnswer × State :=
  match s.env with
  | .oracle => s.oracleAnswer .rd .status 0
  | .device =>
    match s.nextFailure with
    | some (info, reached) => (.err info reached, s.dropAnswer)
    | none => (.ok (statusByte s.dev.statusHi s.dev.inbound.isSome s.dev.outbound.isSome), s.dropAnswer)
  | .reference => (.ok s.dev.refStatus, s.setDev s.dev.refTick)

/-- The environment's answer to `BusRead(READ)`. It consumes the byte (R87); where there is none, the byte returned is
free (R100, I11). A failed one consumes it or not (R279; log entry 24). -/
def State.answerRead (s : State) : BusAnswer × State :=
  match s.env with
  | .oracle => s.oracleAnswer .rd .read 0
  | .device =>
    match s.nextFailure with
    | some (info, reached) =>
      (.err info reached, (s.setDev { s.dev with outbound := if reached then none else s.dev.outbound }).dropAnswer)
    | none =>
      (.ok (s.dev.outbound.getD (Config.freeByte s.fresh)), (s.setDev { s.dev with outbound := none }).draw.dropAnswer)
  | .reference =>
    if s.dev.rxw = 0 then (.ok (s.dev.outbound.getD 0), s.setDev { s.dev with outbound := none }) else (.ok 0, s)

/-- The environment's answer to `BusWrite(WRITE, b)`. A failed one reaches the device or not (R72, I16). To the reference
device a write while `txb > 0` has no defined answer (R104), so it is the oracle's, as is the bus from then on
(log entry 20). -/
def State.answerWrite (b : Byte) (s : State) : BusAnswer × State :=
  match s.env with
  | .oracle => s.oracleAnswer .wr .write b
  | .device =>
    match s.nextFailure with
    | some (info, reached) => (.err info reached, (if reached then s.receive b else s).dropAnswer)
    | none => (.ok 0, (s.receive b).dropAnswer)
  | .reference => if s.dev.txb = 0 then (.ok 0, s.refReceive b) else s.toOracle.oracleAnswer .wr .write b

/-- `BusRead(STATUS)` (R174): the answer, and the state with the transaction made and recorded. -/
def State.busReadStatus (s : State) : BusAnswer × State :=
  let r := s.answerStatus
  (r.1, r.2.emit (readEvent .status r.1))

/-- `BusRead(READ)` (R176). -/
def State.busReadRead (s : State) : BusAnswer × State :=
  let r := s.answerRead
  (r.1, r.2.emit (readEvent .read r.1))

/-- `BusWrite(WRITE, b)` (R175). -/
def State.busWrite (b : Byte) (s : State) : BusAnswer × State :=
  let r := s.answerWrite b
  (r.1, r.2.emit (writeEvent b r.1))

end Sys2Proof.Machine
end

