-- ==== Sys2Proof/Machine/Handshake.lean ====
section
/-! DEFINITION. The phases of the two handshakes (R152 to R164) and the meanings of VREAD, VWRITE and of the three bus
primitives. -/

namespace Sys2Proof.Machine

/-! ## Acceptance -/

/-- VREAD (R170), its acceptance clause: `S.op <- VREAD ; S.addr <- ADDR ; S.phase <- RD_STALE_STAT`. The phases R155 to
R160 follow, one a step. -/
def execVread (addr : VAddr) (s : State) : Host.Outcome State Fault Refusal :=
  s.accept fun s => s.setBlk { s.blk with op := some .vread, addr := some addr, phase := .rdStaleStat }

/-- VWRITE (R172), its acceptance clause. The phases R161 to R164 follow, one a step. -/
def execVwrite (addr : VAddr) (data : Byte) (s : State) : Host.Outcome State Fault Refusal :=
  s.accept fun s =>
    s.setBlk { s.blk with op := some .vwrite, addr := some addr, data := some data, phase := .wrPollTx1, pcnt := 0 }

/-! ## The phases. Each takes the transport's answer and the state with the transaction made (R150). -/

/-- `PollStep(ready, Pnext, T)` after its status read (R152). The delay follows exactly a failed poll that another poll
of the loop follows (R154). -/
def State.pollStep (ready : Byte → Bool) (next : Phase) (timeout : RespCode) (ans : BusAnswer) (s : State) : State :=
  match ans with
  | .err info _ => s.abort .transportError (s.blk.pcnt + 1) (some info)
  | .ok v =>
    if ready v then s.enter next
    else if s.params.pollLimit = .reads (s.blk.pcnt + 1) then s.abort timeout (s.blk.pcnt + 1) none
    else (s.setBlk { s.blk with pcnt := s.blk.pcnt + 1 }).emit .dly

/-- `RD_STALE_STAT` (R155). -/
def State.phaseStaleStat (ans : BusAnswer) (s : State) : State :=
  match ans with
  | .err info _ => s.abort .transportError 0 (some info)
  | .ok v => if rxReady v then s.goto .rdStaleDiscard else s.enter .rdPollTx

/-- A phase that moves on whatever `OK` brings: `RD_STALE_DISCARD` (R156), `RD_CMD` (R158), `WR_CMD` (R162). -/
def State.phaseAdvance (next : Phase) (ans : BusAnswer) (s : State) : State :=
  match ans with
  | .err info _ => s.abort .transportError 0 (some info)
  | .ok _ => s.enter next

/-- The phase rule that a status read belongs to: R155, R157, R159, R161, R163. In any other phase the primitive "writes
no block state by itself" (R174; log entry 13). -/
def State.afterStatus (ans : BusAnswer) (s : State) : State :=
  match s.blk.phase with
  | .rdStaleStat => s.phaseStaleStat ans
  | .rdPollTx => s.pollStep txReady .rdCmd .timeoutRdTx ans
  | .rdPollRx => s.pollStep rxReady .rdFetch .timeoutRdRx ans
  | .wrPollTx1 => s.pollStep txReady .wrCmd .timeoutWrAddr ans
  | .wrPollTx2 => s.pollStep txReady .wrData .timeoutWrData ans
  | .idle | .rdStaleDiscard | .rdCmd | .rdFetch | .wrCmd | .wrData => s

/-- The phase rule that a READ read belongs to: R156 (value discarded) or R160 (value returned). -/
def State.afterRead (ans : BusAnswer) (s : State) : Host.Outcome State Fault Refusal :=
  match s.blk.phase with
  | .rdStaleDiscard => .next (s.phaseAdvance .rdPollTx ans)
  | .rdFetch =>
    match ans with
    | .err info _ => .next (s.abort .transportError 0 (some info))
    | .ok v => s.complete (some v)
  | .idle | .rdStaleStat | .rdPollTx | .rdCmd | .rdPollRx | .wrPollTx1 | .wrCmd | .wrPollTx2 | .wrData => .next s

/-- The phase rule that a WRITE write belongs to: R158, R162 or R164. -/
def State.afterWrite (ans : BusAnswer) (s : State) : Host.Outcome State Fault Refusal :=
  match s.blk.phase with
  | .rdCmd => .next (s.phaseAdvance .rdPollRx ans)
  | .wrCmd => .next (s.phaseAdvance .wrPollTx2 ans)
  | .wrData =>
    match ans with
    | .err info _ => .next (s.abort .transportError 0 (some info))
    | .ok _ => s.complete none
  | .idle | .rdStaleStat | .rdStaleDiscard | .rdPollTx | .rdPollRx | .rdFetch | .wrPollTx1 | .wrPollTx2 => .next s

/-! ## The bus primitives -/

/-- BUS_RD_STATUS (R174): the transaction, then the rule of the phase that issued it (R150). -/
def execBusRdStatus (s : State) : Host.Outcome State Fault Refusal :=
  .next (s.busReadStatus.2.afterStatus s.busReadStatus.1)

/-- BUS_RD_READ (R176): the transaction, then the rule of the phase that issued it. -/
def execBusRdRead (s : State) : Host.Outcome State Fault Refusal :=
  s.busReadRead.2.afterRead s.busReadRead.1

/-- BUS_WR_WRITE (R175): the transaction, then the rule of the phase that issued it. -/
def execBusWrWrite (b : Byte) (s : State) : Host.Outcome State Fault Refusal :=
  (s.busWrite b).2.afterWrite (s.busWrite b).1

end Sys2Proof.Machine
end

