-- ==== Sys2Proof/Machine/Reorder.lean ====
section
/-! DEFINITION. The channel-reorder permutation PERM (43_reorder.md). Lanes are numbered from 0: physical slot `i` and
logical channel `i` are lane `i − 1` (R253). -/

namespace Sys2Proof.Machine

/-- The table `P` of R251, physical slot to logical channel, both less one. -/
def permTable : Vector (Fin 18) 18 := #v[0, 1, 2, 3, 4, 5, 6, 7, 9, 11, 16, 17, 8, 10, 12, 13, 14, 15]

/-- The inverse table `Q` of R252, logical channel to physical slot, both less one. -/
def permInverse : Vector (Fin 18) 18 := #v[0, 1, 2, 3, 4, 5, 6, 7, 12, 8, 13, 9, 14, 15, 16, 17, 10, 11]

/-- `OUT[k − 1] = V[Q(k) − 1]` for every logical channel `k` (R250). -/
def reorder (v : Lanes) : Lanes := Vector.ofFn fun k => v[permInverse[k]]

/-- `reorder⁻¹` of R256: `OUT[i − 1] = V[P(i) − 1]`. No request applies it (R252). -/
def reorderInverse (v : Lanes) : Lanes := Vector.ofFn fun i => v[permTable[i]]

/-- PERM (R250): the whole operation in the accepting step; no bus traffic, `S.phase` stays `IDLE`. -/
def execPerm (lanes : Lanes) (s : State) : Host.Outcome State Fault Refusal :=
  s.accept fun s => s.endOperation okRecord none none (some (reorder lanes))

end Sys2Proof.Machine
end

