-- ==== Sys2Proof/Machine/Select.lean ====
section
/-! DEFINITION. The device multiplexer's operation SELECT (41_devsel.md). -/

namespace Sys2Proof.Machine

/-- SELECT (R200), its acceptance clause. `DEV = 3` names no die and is rejected before any bus traffic (R273). Otherwise
the write handshake of R161 to R164 runs with address 0x4F and the DEVSEL payload (R201, R206). -/
def execSelect (dev : BitVec 2) (s : State) : Host.Outcome State Fault Refusal :=
  s.accept fun s =>
    match dieOfId dev with
    | none => s.reject .invalidDevice
    | some die =>
      s.setBlk { s.blk with
        op := some .select
        dev := some dev
        addr := some devselAddr
        data := some (devselPayload s.params.devCode die)
        phase := .wrPollTx1
        pcnt := 0 }

end Sys2Proof.Machine
end

