-- ==== Sys2Proof/Machine/Dispatch.lean ====
section
/-! DEFINITION. One arm per constructor of Instr. -/

namespace Sys2Proof.Machine

def exec (i : Instr) (s : State) : Host.Outcome State Fault Refusal :=
  match i with
  | .vread addr => Sys2Proof.Machine.execVread addr s
  | .vwrite addr data => Sys2Proof.Machine.execVwrite addr data s
  | .select dev => Sys2Proof.Machine.execSelect dev s
  | .fdec bytes => Sys2Proof.Machine.execFdec bytes s
  | .perm lanes => Sys2Proof.Machine.execPerm lanes s
  | .rdcmd addr => Sys2Proof.Machine.execRdcmd addr s
  | .wrcmd addr payload => Sys2Proof.Machine.execWrcmd addr payload s
  | .busRdStatus => Sys2Proof.Machine.execBusRdStatus s
  | .busRdRead => Sys2Proof.Machine.execBusRdRead s
  | .busWrWrite data => Sys2Proof.Machine.execBusWrWrite data s

end Sys2Proof.Machine
end

