-- ==== Sys2Proof/Machine/Fetch.lean ====
section
/-! DEFINITION. What the next step runs: an input says who moves; the block fetches a request in `IDLE` (R122) or the
transaction its phase names (R31); the device fetches the wire command it holds (R97, R98). -/

namespace Sys2Proof.Machine

/-- What a step does. -/
inductive Move where
  /-- It runs an instruction at a state. -/
  | run (i : Instr) (s : State)
  /-- It runs no instruction. -/
  | done (s : State)
  /-- It stops. -/
  | stop (r : Fault)

/-- A step in `IDLE` (R122, R151): accept the request offered, if there is one; a word that decodes to nothing ends with
`ILLEGAL_REQUEST` (R277). -/
def acceptMove (s : State) : Move :=
  match s.port with
  | [] => .done s
  | r :: rest =>
    match decode (.req r) with
    | .ok i => .run i { s with port := rest }
    | .error _ => .done (({ s with port := rest } : State).reject .illegalRequest)

/-- A latched byte on its way to WRITE, or the field that holds no value. -/
def writeMove (field : LatchField) (b : Option Byte) (s : State) : Move :=
  match b with
  | some b => .run (.busWrWrite b) s
  | none => .stop (.absentLatch field)

/-- The block's step: the table of R31. -/
def blockMove (s : State) : Move :=
  match s.blk.phase with
  | .idle => acceptMove s
  | .rdStaleStat | .rdPollTx | .rdPollRx | .wrPollTx1 | .wrPollTx2 => .run .busRdStatus s
  | .rdStaleDiscard | .rdFetch => .run .busRdRead s
  | .rdCmd => writeMove .addr (s.blk.addr.map (cmdByte false)) s
  | .wrCmd => writeMove .addr (s.blk.addr.map (cmdByte true)) s
  | .wrData => writeMove .data s.blk.data s

/-- The device's step (log entry 23): it carries out the command in flight once it has all of its bytes, or consumes a
command byte from WRITE, which clears `TX_VALID` (R46), or waits. What a device left mid-protocol by an abort does with a
later command is open (R289, I14): that it finishes a read in flight before it consumes the next byte, and takes that
byte as the payload where it awaits one (as R98 has it), is the model's choice (DESIGN CHOICE, log entry 34). -/
def deviceMove (s : State) : Move :=
  match s.dev.slot, s.dev.inbound with
  | .rd a, _ => .run (.rdcmd a) s
  | .wr a, some b => .run (.wrcmd a b) s
  | .wr _, none => .done s
  | .empty, some b => .done (s.setDev { s.dev with slot := slotOfCommand b, inbound := none })
  | .empty, none => .done s

/-- The next move: the first input's, or the block's where no input is left (log entry 1). -/
def nextMove (s : State) : Move :=
  match s.inputs with
  | [] => blockMove s
  | .blockMoves :: rest => blockMove { s with inputs := rest }
  | .deviceMoves :: rest => deviceMove { s with inputs := rest }
  | .deviceChanges d :: rest => .done { s with inputs := rest, dev := d }
  | .offer r :: rest => .done { s with inputs := rest, port := s.port ++ [r] }
  | .reset :: rest => .done (({ s with inputs := rest } : State).blockReset)

/-- The block made to stand in `phase` of operation `op` on address `addr` (log entry 12). -/
def State.inPhase (phase : Phase) (op : LatchedOp) (addr : VAddr) (s : State) : State :=
  s.setBlk { s.blk with phase := phase, op := some op, addr := some addr }

/-- The block made to stand where the byte `b` is the next one it writes: `b` is a command byte (R113). -/
def State.beforeWrite (b : Byte) (s : State) : State :=
  if cmdIsWrite b then
    (s.setBlk { s.blk with data := some (s.blk.data.getD 0) }).inPhase .wrCmd .vwrite (cmdAddr b)
  else s.inPhase .rdCmd .vread (cmdAddr b)

/-- Put an instruction where the next step fetches it (log entry 12). -/
def State.placeInstr (i : Instr) (s : State) : State :=
  match i with
  | .vread _ | .vwrite _ _ | .select _ | .fdec _ | .perm _ =>
    match encode i with
    | .req r => { s.goto .idle with port := r :: s.port, inputs := .blockMoves :: s.inputs }
    | .cmd _ | .txn _ => s
  | .rdcmd a => { s.setDev { s.dev with slot := .rd a } with inputs := .deviceMoves :: s.inputs }
  | .wrcmd a b => { s.setDev { s.dev with slot := .wr a, inbound := some b } with inputs := .deviceMoves :: s.inputs }
  | .busRdStatus =>
    { s.inPhase .rdStaleStat .vread (s.blk.addr.getD 0) with inputs := .blockMoves :: s.inputs }
  | .busRdRead =>
    { s.inPhase .rdStaleDiscard .vread (s.blk.addr.getD 0) with inputs := .blockMoves :: s.inputs }
  | .busWrWrite b => { s.beforeWrite b with inputs := .blockMoves :: s.inputs }

/-- Put a table row's bits where the next step fetches: the instruction they decode to, or, where a request word decodes
to none, the word itself at the port. -/
def State.placeTableWord (nbits w : Nat) (s : State) : State :=
  match decodeTableWord nbits w with
  | some i => s.placeInstr i
  | none =>
    if 16 < nbits then
      { s.goto .idle with port := plainRequest (BitVec.ofNat 32 w) :: s.port, inputs := .blockMoves :: s.inputs }
    else s

end Sys2Proof.Machine
end

