-- ==== Sys2Proof/Machine/Step.lean ====
section
/-! DEFINITION. One step of the machine, and the placing of an instruction for the next one. -/

namespace Sys2Proof.Machine

/-- The outcome of a move: an instruction's is `exec`'s. -/
def runMove : Move → Host.Outcome State Fault Refusal
  | .run i s => exec i s
  | .done s => .next s
  | .stop r => .fault r

/-- One step: what `nextMove` says. -/
def step (s : State) : Host.Outcome State Fault Refusal := runMove (nextMove s)

/-- `s` with an instruction, given by its opcode-table bits, where `step` fetches its next one (log entry 12). -/
def State.withFetchWord (s : State) (nbits w : Nat) : State := s.placeTableWord nbits w

end Sys2Proof.Machine
end

