-- ==== Sys2Proof/Machine/Requester.lean ====
section
/-! DEFINITION. The requester's pseudo-operations (R140): which request each one offers next, given the responses it has
had, and what it makes of them. They are no block operations and no instruction (log entry 32). -/

namespace Sys2Proof.Machine

/-- What a pseudo-operation does next. -/
inductive PseudoStep where
  /-- It offers the request of this line. -/
  | offer (line : AsmLine)
  /-- It is done; `rd16`'s result is a RawSample (R82). -/
  | raw (sample : BitVec 16)
  /-- It is done; `rdf`'s result is the FDEC result (R83). -/
  | decoded (r : FpResult)
  /-- It is done and has no result. -/
  | finished
  /-- A request ended with this code, and the pseudo-operation stops there with it. -/
  | stopped (code : RespCode)
  /-- The responses are not ones this expansion can have had. -/
  | malformed
deriving DecidableEq, Repr

/-- `rd16 A`: `vrd A` → hi; `vrd A+1` → lo. -/
def nextRd16 (addr : Nat) : List Response → PseudoStep
  | [] => .offer (.vrd addr)
  | [_] => .offer (.vrd (addr + 1))
  | [hi, lo] =>
    match hi.rdata, lo.rdata with
    | some h, some l => .raw (rawSample h l)
    | _, _ => .malformed
  | _ => .malformed

/-- `rdf A`: four reads, then `fdec B0, B1, B2, B3`. -/
def nextRdf (addr : Nat) : List Response → PseudoStep
  | [] => .offer (.vrd addr)
  | [_] => .offer (.vrd (addr + 1))
  | [_, _] => .offer (.vrd (addr + 2))
  | [_, _, _] => .offer (.vrd (addr + 3))
  | [r0, r1, r2, r3] =>
    match r0.rdata, r1.rdata, r2.rdata, r3.rdata with
    | some b0, some b1, some b2, some b3 => .offer (.fdec b0.toNat b1.toNat b2.toNat b3.toNat)
    | _, _, _, _ => .malformed
  | [_, _, _, _, r] =>
    match r.fp with
    | some fp => .decoded fp
    | none => .malformed
  | _ => .malformed

/-- `wrall A, D`: `sel` and `vwr` for each die. -/
def nextWrall (addr data : Nat) (had : List Response) : PseudoStep :=
  if 6 < had.length then .malformed
  else if had.length = 6 then .finished
  else if had.length % 2 = 0 then .offer (.sel (had.length / 2))
  else .offer (.vwr addr data)

/-- The next step of a pseudo-operation after the responses `had`, oldest first. -/
def nextOfPseudo (p : Pseudo) (had : List Response) : PseudoStep :=
  match had.find? (·.code != .ok) with
  | some r => .stopped r.code
  | none =>
    match p with
    | .rd16 addr => nextRd16 addr had
    | .rdf addr => nextRdf addr had
    | .wrall addr data => nextWrall addr data had

end Sys2Proof.Machine
end

