-- ==== Sys2Proof/Safety.lean ====
section
/-! DEFINITION. What a safe run is: the trace's safety rules (R179, R180), the accesses the block may make (R71), the
legal records (R271 to R276), and the invariant every step keeps. -/

namespace Sys2Proof.Machine

/-! ## The trace, newest event first -/

/-- "Every `Wr(WRITE, ·)` comes right after a `Rd(STATUS, s)` with `s[1] = 0`, with no transaction and no delay between
them" (R179). -/
def writesFollowReady : List Event → Bool
  | [] => true
  | .wr _ _ :: rest =>
    (match rest with
      | .rd .status v :: _ => txReady v
      | _ => false) && writesFollowReady rest
  | .rd _ _ :: rest | .terr _ _ _ :: rest | .dly :: rest => writesFollowReady rest

/-- "Every `Rd(READ, ·)` comes right after a `Rd(STATUS, s)` with `s[0] = 1`, with nothing between" (R180). -/
def readsFollowValid : List Event → Bool
  | [] => true
  | .rd .read _ :: rest =>
    (match rest with
      | .rd .status v :: _ => rxReady v
      | _ => false) && readsFollowValid rest
  | .rd .status _ :: rest | .rd .write _ :: rest | .wr _ _ :: rest | .terr _ _ _ :: rest | .dly :: rest =>
    readsFollowValid rest

/-- The accesses of R71's table: reads of STATUS and READ, writes of WRITE. -/
def Event.allowed : Event → Bool
  | .rd .status _ | .rd .read _ | .wr .write _ | .terr .status .rd _ | .terr .read .rd _ | .terr .write .wr _ | .dly => true
  | .rd .write _ | .wr .status _ | .wr .read _ | .terr .status .wr _ | .terr .read .wr _ | .terr .write .rd _ => false

/-- An event that is a bus transaction. -/
def Event.isTxn : Event → Bool
  | .rd _ _ | .wr _ _ | .terr _ _ _ => true
  | .dly => false

/-- Whether the newest event is a status read whose byte satisfies `ready`. -/
def lastStatus (ready : Byte → Bool) : List Event → Bool
  | .rd .status v :: _ => ready v
  | _ => false

/-- The phases that write follow a successful `TXready` poll, the phases that read READ follow a status read that showed
`RX_VALID` (R175, R176). -/
def phaseFollowsStatus (phase : Phase) (trace : List Event) : Bool :=
  match phase with
  | .rdCmd | .wrCmd | .wrData => lastStatus txReady trace
  | .rdStaleDiscard | .rdFetch => lastStatus rxReady trace
  | .idle | .rdStaleStat | .rdPollTx | .rdPollRx | .wrPollTx1 | .wrPollTx2 => true

/-- The bus is used safely so far, and the next transaction will be safe too. -/
def State.busSafe (s : State) : Bool :=
  writesFollowReady s.trace && readsFollowValid s.trace && s.trace.all Event.allowed &&
    phaseFollowsStatus s.blk.phase s.trace

/-! ## The block -/

/-- The phases of a read handshake. -/
def Phase.isRead : Phase → Bool
  | .rdStaleStat | .rdStaleDiscard | .rdPollTx | .rdCmd | .rdPollRx | .rdFetch => true
  | .idle | .wrPollTx1 | .wrCmd | .wrPollTx2 | .wrData => false

/-- The latched request is there whenever a phase reads it (R33), and a SELECT latched 0x4F and its die's payload (R200,
R201). -/
def Block.latchOk (codes : DevCodes) (b : Block) : Bool :=
  if b.phase = .idle then true
  else if b.phase.isRead then b.op = some .vread && b.addr.isSome
  else
    match b.op with
    | some .vwrite => b.addr.isSome && b.data.isSome
    | some .select =>
      match b.dev with
      | some d =>
        match dieOfId d with
        | some die => b.addr = some devselAddr && b.data = some (devselPayload codes die)
        | none => false
      | none => false
    | some .vread | none => false

/-- `S.pcnt` counts inside polling loops only, and below the bound between two polls (R34). -/
def Block.pollsOk (limit : PollLimit) (b : Block) : Bool :=
  if b.phase.isPolling then
    match limit with
    | .inf => true
    | .reads n => b.pcnt < n
  else b.pcnt = 0

/-- The records an operation may end with (R271 to R277): which phase, how many polls, whether the transport's
information is there. -/
def LastErr.legal (limit : PollLimit) (e : LastErr) : Bool :=
  match e.code with
  | .ok | .invalidDevice | .illegalRequest => e.phase = .idle && e.polls = 0 && e.info = none
  | .timeoutRdTx => e.phase = .rdPollTx && limit = .reads e.polls && e.info = none
  | .timeoutRdRx => e.phase = .rdPollRx && limit = .reads e.polls && e.info = none
  | .timeoutWrAddr => e.phase = .wrPollTx1 && limit = .reads e.polls && e.info = none
  | .timeoutWrData => e.phase = .wrPollTx2 && limit = .reads e.polls && e.info = none
  | .invalidParameter => false
  | .transportError =>
    e.phase != .idle && e.info.isSome &&
      (if e.phase.isPolling then
        1 ≤ e.polls &&
          (match limit with
            | .inf => true
            | .reads n => e.polls ≤ n)
      else e.polls = 0)

/-- The record a response carries (R41: "the same values the step writes to `S.lasterr`"). -/
def Response.record (r : Response) : LastErr := ⟨r.code, r.errphase, r.errpolls, r.info⟩

/-- The fields a response may carry (R41): data only with `OK`, and one kind of data. -/
def Response.legal (limit : PollLimit) (r : Response) : Bool :=
  r.record.legal limit &&
    ((r.rdata.isNone && r.fp.isNone && r.vec.isNone) ||
      (r.code = .ok &&
        ((r.rdata.isSome && r.fp.isNone && r.vec.isNone) || (r.rdata.isNone && r.fp.isSome && r.vec.isNone) ||
          (r.rdata.isNone && r.fp.isNone && r.vec.isSome))))

/-! ## The device -/

/-- The register files are in canonical form and hold no per-die register at DEVSEL's address (R74, R79). -/
def Device.wf (d : Device) : Bool := d.vreg.wf && d.vreg.all fun c => c.1 % 128 != devselAddr.toNat

/-- A device change that comes in is one of a device. -/
def Input.wf : Input → Bool
  | .deviceChanges d => d.wf
  | .blockMoves | .deviceMoves | .offer _ | .reset => true

/-! ## The invariant -/

/-- What every step keeps (the obligations say so) and `State.reset` has. -/
structure State.Inv (s : State) : Prop where
  params : s.params.wf = true
  latch : s.blk.latchOk s.params.devCode = true
  polls : s.blk.pollsOk s.params.pollLimit = true
  bus : s.busSafe = true
  lasterr : s.blk.lasterr.legal s.params.pollLimit = true
  responses : (s.responses.all (Response.legal s.params.pollLimit)) = true
  device : s.dev.wf = true
  inputs : (s.inputs.all Input.wf) = true

/-! ## The terms the statements use -/

/-- The value of an exact rational. -/
def Ratio.toRat (q : Ratio) : Rat := (q.num : Rat) / (q.den : Rat)

/-- The block takes the next step, at `s0`: `s` with the input that says so used up. -/
def State.blockTurn (s s0 : State) : Prop :=
  (s.inputs = [] ∧ s0 = s) ∨ ∃ more, s.inputs = .blockMoves :: more ∧ s0 = { s with inputs := more }

/-- The device takes the next step, at `s0`. -/
def State.deviceTurn (s s0 : State) : Prop := ∃ more, s.inputs = .deviceMoves :: more ∧ s0 = { s with inputs := more }

/-- A polling phase `p` is R152's `PollStep`: bit `bit` of STATUS is `want` when ready, `next` follows, `timeout` is the
timeout code. The four clauses are the four ways a poll ends; `s1` is the state with the transaction made. -/
def PollRule (p : Phase) (bit : Nat) (want : Bool) (next : Phase) (timeout : RespCode) : Prop :=
  ∀ s s1 : State, s.blk.phase = p →
    (∀ info reached, s.busReadStatus = (.err info reached, s1) →
      exec .busRdStatus s = .next { s1 with
        blk := { s.blk with phase := .idle, pcnt := 0, lasterr := ⟨.transportError, p, s.blk.pcnt + 1, some info⟩ }
        responses := ⟨.transportError, none, none, none, p, s.blk.pcnt + 1, some info⟩ :: s.responses }) ∧
    (∀ v, s.busReadStatus = (.ok v, s1) → v.getLsbD bit = want →
      exec .busRdStatus s = .next { s1 with blk := { s.blk with phase := next, pcnt := 0 } }) ∧
    (∀ v, s.busReadStatus = (.ok v, s1) → v.getLsbD bit ≠ want → s.params.pollLimit = .reads (s.blk.pcnt + 1) →
      exec .busRdStatus s = .next { s1 with
        blk := { s.blk with phase := .idle, pcnt := 0, lasterr := ⟨timeout, p, s.blk.pcnt + 1, none⟩ }
        responses := ⟨timeout, none, none, none, p, s.blk.pcnt + 1, none⟩ :: s.responses }) ∧
    (∀ v, s.busReadStatus = (.ok v, s1) → v.getLsbD bit ≠ want → s.params.pollLimit ≠ .reads (s.blk.pcnt + 1) →
      exec .busRdStatus s = .next { s1 with
        blk := { s.blk with pcnt := s.blk.pcnt + 1 }
        trace := .dly :: s1.trace })

/-- What a transport failure does to a phase that is no polling phase: `Abort(TRANSPORT_ERROR, polls = 0, info)` (R165),
`s1` being the state with the transaction made. -/
def afterFailure (s s1 : State) (info : TErr) : State :=
  { s1 with
    blk := { s.blk with phase := .idle, pcnt := 0, lasterr := ⟨.transportError, s.blk.phase, 0, some info⟩ }
    responses := ⟨.transportError, none, none, none, s.blk.phase, 0, some info⟩ :: s.responses }

/-- A polling loop may go on after `n` failed polls. -/
def limitAllows (limit : PollLimit) (n : Nat) : Prop :=
  match limit with
  | .inf => True
  | .reads bound => n < bound

/-- The trace of failed polls, newest event first: each read is followed by a delay (R154). -/
def failedPolls (polls : List Byte) : List Event := polls.reverse.flatMap fun p => [.dly, .rd .status p]

/-- The response to an operation that ended with `OK` and this data byte. -/
def okResponse (rdata : Option Byte) : Response := ⟨.ok, rdata, none, none, .idle, 0, none⟩

/-- A run of `k` steps of the machine. -/
def runFor (k : Nat) (s : State) : Host.Outcome State Fault Refusal := Sys2Proof.core.run k s

end Sys2Proof.Machine
end

