-- ==== Sys2Proof/Certificates/Slice0/Obligations.lean ====
section
/-! DEFINITION. The statements for the provers. -/

open Sys2Proof Sys2Proof.Machine

/-! ## Encodings -/

/-- Decoding an encoded instruction gives it back, every operand at every value (R110 to R121, R143). -/
def Obligations.DecodeOfEncodeIsIdentity : Prop :=
  ∀ i : Instr, decode (encode i) = .ok i

/-- An instruction has one spelling: bits that decode to it are the ones it encodes to. A request's unused operand lines
are no part of its word (log entry 10). -/
def Obligations.DecodedBitsAreTheEncoding : Prop :=
  ∀ (c : Code) (i : Instr), decode c = .ok i →
    (∀ r, c = .req r → ∃ r', encode i = .req r' ∧ r'.word = r.word) ∧
    (∀ bytes, c = .cmd bytes → encode i = .cmd bytes) ∧
    (∀ d, c = .txn d → encode i = .txn d)

/-- The opcode map R143, row by row, and nothing outside it. -/
def Obligations.OpcodeMapIsTheDecoder : Prop :=
  (∀ r : Request,
    (r.word &&& 0xFFFF80FF#32 = 0x00000000#32 → decode (.req r) = .ok (.vread (r.word.extractLsb' 8 7))) ∧
    (r.word &&& 0xFFFF8000#32 = 0x20000000#32 →
      decode (.req r) = .ok (.vwrite (r.word.extractLsb' 8 7) (r.word.extractLsb' 0 8))) ∧
    (r.word &&& 0xFFFCFFFF#32 = 0x40000000#32 → decode (.req r) = .ok (.select (r.word.extractLsb' 16 2))) ∧
    (r.word &&& 0xFFFFFFFF#32 = 0x60000000#32 → decode (.req r) = .ok (.fdec r.bytes)) ∧
    (r.word &&& 0xFFFFFFFF#32 = 0x80000000#32 → decode (.req r) = .ok (.perm r.lanes)) ∧
    (r.word &&& 0xFFFF80FF#32 ≠ 0x00000000#32 → r.word &&& 0xFFFF8000#32 ≠ 0x20000000#32 →
      r.word &&& 0xFFFCFFFF#32 ≠ 0x40000000#32 → r.word ≠ 0x60000000#32 → r.word ≠ 0x80000000#32 →
      ∃ e, decode (.req r) = .error e)) ∧
  (∀ b d : Byte,
    (b &&& 0x80#8 = 0x00#8 → decode (.cmd [b]) = .ok (.rdcmd (b.extractLsb' 0 7))) ∧
    (b &&& 0x80#8 = 0x80#8 → decode (.cmd [b, d]) = .ok (.wrcmd (b.extractLsb' 0 7) d))) ∧
  (∀ d : TxnWord,
    (d &&& 0x7FF#11 = 0x000#11 → decode (.txn d) = .ok .busRdStatus) ∧
    (d &&& 0x7FF#11 = 0x200#11 → decode (.txn d) = .ok .busRdRead) ∧
    (d &&& 0x700#11 = 0x500#11 → decode (.txn d) = .ok (.busWrWrite (d.extractLsb' 0 8))) ∧
    (d ≠ 0x000#11 → d ≠ 0x200#11 → d &&& 0x700#11 ≠ 0x500#11 → ∃ e, decode (.txn d) = .error e))

/-- Words written out from the spec (R130, V1 to V15, V20, V40, V51) decode to what they stand for. -/
def Obligations.WordsOfTheSpecDecode : Prop :=
  decode (.req (plainRequest 0x00000600#32)) = .ok (.vread 0x06#7) ∧
  decode (.req (plainRequest 0x20000540#32)) = .ok (.vwrite 0x05#7 0x40#8) ∧
  decode (.req (plainRequest 0x40010000#32)) = .ok (.select 1#2) ∧
  decode (.req (plainRequest 0x40030000#32)) = .ok (.select 3#2) ∧
  decode (.cmd [0x06#8]) = .ok (.rdcmd 0x06#7) ∧
  decode (.cmd [0xCF#8, 0x01#8]) = .ok (.wrcmd 0x4F#7 0x01#8) ∧
  decode (.txn 0x000#11) = .ok .busRdStatus ∧
  decode (.txn 0x200#11) = .ok .busRdRead ∧
  decode (.txn 0x585#11) = .ok (.busWrWrite 0x85#8) ∧
  decode (.req (plainRequest 0xA0000000#32)) = .error .reservedOpcode ∧
  decode (.req (plainRequest 0x00040000#32)) = .error .reservedBits ∧
  decode (.req (plainRequest 0x00010600#32)) = .error .nonzeroField

/-- Operand assembly (R127), its six items. -/
def Obligations.OperandAssemblyIsExact : Prop :=
  (∀ a : VAddr, (cmdByte false a).toNat = 0x00 + a.toNat ∧ (cmdByte true a).toNat = 0x80 + a.toNat) ∧
  (∀ (s : State) (d : Byte), s.blk.phase = .wrData → s.blk.data = some d → blockMove s = .run (.busWrWrite d) s) ∧
  (∀ (codes : DevCodes) (die : Die), (devselPayload codes die).toNat = (codeOfDie codes die).toNat) ∧
  (∀ b : FpBytes,
    (floatWord b).toNat = b.b0.toNat * 2 ^ 24 + b.b1.toNat * 2 ^ 16 + b.b2.toNat * 2 ^ 8 + b.b3.toNat) ∧
  (∀ hi lo : Byte, (rawSample hi lo).toNat = hi.toNat * 2 ^ 8 + lo.toNat)

/-- The assembler's lines (R130): each encodes to the word of its row, the word decodes to the operation with the operands
written, and a line outside the constraint of its row is refused. -/
def Obligations.AssemblerLinesEncode : Prop :=
  (∀ a, a ≤ 0x7F → ∃ r, assemble (.vrd a) = some r ∧ r.word.toNat = a * 2 ^ 8 ∧
    decode (.req r) = .ok (.vread (BitVec.ofNat 7 a))) ∧
  (∀ a d, a ≤ 0x7F → d ≤ 0xFF → ∃ r, assemble (.vwr a d) = some r ∧ r.word.toNat = 0x20000000 + a * 2 ^ 8 + d ∧
    decode (.req r) = .ok (.vwrite (BitVec.ofNat 7 a) (BitVec.ofNat 8 d))) ∧
  (∀ k, k ≤ 3 → ∃ r, assemble (.sel k) = some r ∧ r.word.toNat = 0x40000000 + k * 2 ^ 16 ∧
    decode (.req r) = .ok (.select (BitVec.ofNat 2 k))) ∧
  (∀ b0 b1 b2 b3, b0 ≤ 0xFF → b1 ≤ 0xFF → b2 ≤ 0xFF → b3 ≤ 0xFF →
    ∃ r, assemble (.fdec b0 b1 b2 b3) = some r ∧ r.word = 0x60000000#32 ∧
      decode (.req r) = .ok (.fdec ⟨BitVec.ofNat 8 b0, BitVec.ofNat 8 b1, BitVec.ofNat 8 b2, BitVec.ofNat 8 b3⟩)) ∧
  (∀ lanes : List Nat, lanes.length = 18 → (∀ x ∈ lanes, x < 2 ^ 32) →
    ∃ r, assemble (.perm lanes) = some r ∧ r.word = 0x80000000#32 ∧ decode (.req r) = .ok (.perm r.lanes) ∧
      r.lanes.toList.map BitVec.toNat = lanes) ∧
  (∀ line : AsmLine, line.wellFormed = false → assemble line = none) ∧
  (∀ a, 0x7F < a → assemble (.vrd a) = none) ∧
  (∀ a d, 0x7F < a ∨ 0xFF < d → assemble (.vwr a d) = none) ∧
  (∀ k, 3 < k → assemble (.sel k) = none) ∧
  (∀ b0 b1 b2 b3, 0xFF < b0 ∨ 0xFF < b1 ∨ 0xFF < b2 ∨ 0xFF < b3 → assemble (.fdec b0 b1 b2 b3) = none) ∧
  (∀ lanes : List Nat, lanes.length ≠ 18 ∨ (∃ x ∈ lanes, 2 ^ 32 ≤ x) → assemble (.perm lanes) = none)

/-- The pseudo-operations (R140): their requests in order, their results, and the stop at the first code that is not
`OK`. -/
def Obligations.PseudoOperationsExpand : Prop :=
  (∀ a r0 r1 h l, r0.code = .ok → r1.code = .ok → r0.rdata = some h → r1.rdata = some l →
    nextOfPseudo (.rd16 a) [] = .offer (.vrd a) ∧
    nextOfPseudo (.rd16 a) [r0] = .offer (.vrd (a + 1)) ∧
    nextOfPseudo (.rd16 a) [r0, r1] = .raw (h ++ l)) ∧
  (∀ a r0 r1 r2 r3 r4 b0 b1 b2 b3 fp, r0.code = .ok → r1.code = .ok → r2.code = .ok → r3.code = .ok → r4.code = .ok →
    r0.rdata = some b0 → r1.rdata = some b1 → r2.rdata = some b2 → r3.rdata = some b3 → r4.fp = some fp →
    nextOfPseudo (.rdf a) [] = .offer (.vrd a) ∧
    nextOfPseudo (.rdf a) [r0] = .offer (.vrd (a + 1)) ∧
    nextOfPseudo (.rdf a) [r0, r1] = .offer (.vrd (a + 2)) ∧
    nextOfPseudo (.rdf a) [r0, r1, r2] = .offer (.vrd (a + 3)) ∧
    nextOfPseudo (.rdf a) [r0, r1, r2, r3] = .offer (.fdec b0.toNat b1.toNat b2.toNat b3.toNat) ∧
    nextOfPseudo (.rdf a) [r0, r1, r2, r3, r4] = .decoded fp) ∧
  (∀ a d (had : List Response), (∀ r ∈ had, r.code = .ok) →
    (had.length = 0 → nextOfPseudo (.wrall a d) had = .offer (.sel 0)) ∧
    (had.length = 1 → nextOfPseudo (.wrall a d) had = .offer (.vwr a d)) ∧
    (had.length = 2 → nextOfPseudo (.wrall a d) had = .offer (.sel 1)) ∧
    (had.length = 3 → nextOfPseudo (.wrall a d) had = .offer (.vwr a d)) ∧
    (had.length = 4 → nextOfPseudo (.wrall a d) had = .offer (.sel 2)) ∧
    (had.length = 5 → nextOfPseudo (.wrall a d) had = .offer (.vwr a d)) ∧
    (had.length = 6 → nextOfPseudo (.wrall a d) had = .finished)) ∧
  (∀ p (had : List Response) r, (∀ q ∈ had, q.code = .ok) → r.code ≠ .ok →
    nextOfPseudo p (had ++ [r]) = .stopped r.code)

/-! ## What a step runs -/

/-- In `IDLE` the block's step runs the operation that the offered request decodes to, with the request taken from the
port (R122, R151). -/
def Obligations.StepRunsTheOfferedRequest : Prop :=
  ∀ (s s0 : State) (r : Request) (rest : List Request) (i : Instr), s.blockTurn s0 → s.blk.phase = .idle →
    s.port = r :: rest → decode (.req r) = .ok i → step s = exec i { s0 with port := rest }

/-- Outside `IDLE` the block's step runs the transaction that R31's table names, and R31's numbering of the phases. -/
def Obligations.StepRunsTheTransactionOfThePhase : Prop :=
  (∀ (s s0 : State), s.blockTurn s0 →
    (s.blk.phase = .rdStaleStat ∨ s.blk.phase = .rdPollTx ∨ s.blk.phase = .rdPollRx ∨ s.blk.phase = .wrPollTx1 ∨
      s.blk.phase = .wrPollTx2 → step s = exec .busRdStatus s0) ∧
    (s.blk.phase = .rdStaleDiscard ∨ s.blk.phase = .rdFetch → step s = exec .busRdRead s0) ∧
    (∀ a, s.blk.phase = .rdCmd → s.blk.addr = some a → step s = exec (.busWrWrite (0#1 ++ a)) s0) ∧
    (∀ a, s.blk.phase = .wrCmd → s.blk.addr = some a → step s = exec (.busWrWrite (1#1 ++ a)) s0) ∧
    (∀ d, s.blk.phase = .wrData → s.blk.data = some d → step s = exec (.busWrWrite d) s0)) ∧
  ([Phase.idle, .rdStaleStat, .rdStaleDiscard, .rdPollTx, .rdCmd, .rdPollRx, .rdFetch, .wrPollTx1, .wrCmd, .wrPollTx2,
      .wrData].map fun p => p.code.toNat) = [0, 1, 2, 3, 4, 5, 6, 7, 8, 9, 10] ∧
  (∀ p : Phase, p.code.toNat ≤ 10) ∧
  State.reset.blk.phase = .idle

/-- The device's step (R97, R98, R128; the device as an agent is the model's choice, log entry 23): it runs the command in
flight once all its bytes are there, and consumes a command byte, which clears `TX_VALID`, before that. That a device left
mid-protocol by an abort goes on with the command in flight is the model's choice too, log entry 34. -/
def Obligations.StepRunsTheWireCommand : Prop :=
  ∀ (s s0 : State), s.deviceTurn s0 →
    (∀ a, s.dev.slot = .rd a → step s = exec (.rdcmd a) s0) ∧
    (∀ a b, s.dev.slot = .wr a → s.dev.inbound = some b → step s = exec (.wrcmd a b) s0) ∧
    (∀ b, s.dev.slot = .empty → s.dev.inbound = some b → b.getLsbD 7 = false →
      step s = .next { s0 with dev := { s.dev with slot := .rd (b.extractLsb' 0 7), inbound := none } }) ∧
    (∀ b, s.dev.slot = .empty → s.dev.inbound = some b → b.getLsbD 7 = true →
      step s = .next { s0 with dev := { s.dev with slot := .wr (b.extractLsb' 0 7), inbound := none } }) ∧
    (s.dev.inbound = none → (∀ a, s.dev.slot ≠ .rd a) → step s = .next s0)

/-- `ILLEGAL_REQUEST` (R277): for which words it is raised, and everything the accepting step does then. -/
def Obligations.IllegalRequestEndsAtDecode : Prop :=
  (∀ r : Request, (∃ e, decode (.req r) = .error e) ↔
    (5 ≤ (reqOp r.word).toNat ∨ reqRsv r.word ≠ 0 ∨ reqRsvw r.word ≠ 0 ∨
      (reqOp r.word = 0 ∧ (reqDev r.word ≠ 0 ∨ reqData r.word ≠ 0)) ∨
      (reqOp r.word = 1 ∧ reqDev r.word ≠ 0) ∨
      (reqOp r.word = 2 ∧ (reqAddr r.word ≠ 0 ∨ reqData r.word ≠ 0)) ∨
      ((reqOp r.word = 3 ∨ reqOp r.word = 4) ∧ r.word.extractLsb' 0 18 ≠ 0))) ∧
  (∀ (s s0 : State) (r : Request) (rest : List Request) (e : DecodeError), s.blockTurn s0 → s.blk.phase = .idle →
    s.port = r :: rest → decode (.req r) = .error e →
    step s = .next { s0 with
      port := rest
      blk := { s.blk with lasterr := ⟨.illegalRequest, .idle, 0, none⟩ }
      responses := ⟨.illegalRequest, none, none, none, .idle, 0, none⟩ :: s.responses })

/-- The port is ready exactly in `IDLE`, and a busy block accepts nothing: the port keeps every request it holds, in order,
and the five operations have no effect on a busy block (R32, R40; what `exec` does then is log entry 14). -/
def Obligations.BusyBlockHoldsRequests : Prop :=
  (∀ b : Block, (b.ready = true ↔ b.phase = .idle) ∧ (b.busy = true ↔ b.phase ≠ .idle)) ∧
  (∀ s t : State, s.blk.phase ≠ .idle → step s = .next t →
    t.port = s.port ∨ ∃ r more, s.inputs = .offer r :: more ∧ t.port = s.port ++ [r]) ∧
  (∀ s : State, s.blk.phase ≠ .idle →
    (∀ a, exec (.vread a) s = .next s) ∧ (∀ a d, exec (.vwrite a d) s = .next s) ∧
    (∀ d, exec (.select d) s = .next s) ∧ (∀ b, exec (.fdec b) s = .next s) ∧ (∀ v, exec (.perm v) s = .next s))

/-- `IDLE` with no request offered is a step that changes nothing (R151, R288). -/
def Obligations.IdleStepWithoutRequestChangesNothing : Prop :=
  ∀ s s0 : State, s.blockTurn s0 → s.blk.phase = .idle → s.port = [] → step s = .next s0

/-! ## The five operations at acceptance -/

/-- VREAD, VWRITE and SELECT of a die are accepted in `IDLE`: what is latched, the phase entered, and nothing else (R170,
R172, R200, R201). -/
def Obligations.HandshakeRequestsAreAccepted : Prop :=
  ∀ s : State, s.blk.phase = .idle →
    (∀ a, exec (.vread a) s = .next { s with
      blk := { s.blk with op := some .vread, addr := some a, phase := .rdStaleStat } }) ∧
    (∀ a d, exec (.vwrite a d) s = .next { s with
      blk := { s.blk with op := some .vwrite, addr := some a, data := some d, phase := .wrPollTx1, pcnt := 0 } }) ∧
    (∀ (dev : BitVec 2) (code : BitVec 2),
      (dev = 0 ∧ code = s.params.devCode.dev1) ∨ (dev = 1 ∧ code = s.params.devCode.dev2) ∨
        (dev = 2 ∧ code = s.params.devCode.dev3) →
      exec (.select dev) s = .next { s with
        blk := { s.blk with
          op := some .select
          dev := some dev
          addr := some 0x4F#7
          data := some (0#6 ++ code)
          phase := .wrPollTx1
          pcnt := 0 } })

/-- `INVALID_DEVICE` (R273): SELECT with `DEV = 3`, raised at acceptance, with no bus transaction, `S.sel` unchanged and
`S.phase` still `IDLE`. -/
def Obligations.SelectOfNoDieIsInvalid : Prop :=
  ∀ s : State, s.blk.phase = .idle →
    exec (.select 3) s = .next { s with
      blk := { s.blk with lasterr := ⟨.invalidDevice, .idle, 0, none⟩ }
      responses := ⟨.invalidDevice, none, none, none, .idle, 0, none⟩ :: s.responses }

/-- FDEC completes in the accepting step for every operand, with the record of R220: the big-endian word (R221), its
fields (R222), its class and `edge` (R223). The value is `FloatValueIsExact`'s. -/
def Obligations.FdecCompletes : Prop :=
  ∀ (s : State) (b : FpBytes), s.blk.phase = .idle →
    ∃ r : FpResult,
      exec (.fdec b) s = .next { s with
        blk := { s.blk with lasterr := ⟨.ok, .idle, 0, none⟩ }
        responses := ⟨.ok, none, some r, none, .idle, 0, none⟩ :: s.responses } ∧
      r = decodeFloat s.params.fpEdge r.word ∧
      r.word.toNat = b.b0.toNat * 2 ^ 24 + b.b1.toNat * 2 ^ 16 + b.b2.toNat * 2 ^ 8 + b.b3.toNat ∧
      r.sign = r.word.extractLsb' 31 1 ∧ r.exp = r.word.extractLsb' 23 8 ∧ r.frac = r.word.extractLsb' 0 23 ∧
      (r.cls = .normal ↔ 1 ≤ r.exp.toNat ∧ r.exp.toNat ≤ 254) ∧
      (r.cls = .zero ↔ r.exp.toNat = 0 ∧ r.frac.toNat = 0) ∧
      (r.cls = .subnormal ↔ r.exp.toNat = 0 ∧ r.frac.toNat ≠ 0) ∧
      (r.cls = .inf ↔ r.exp.toNat = 255 ∧ r.frac.toNat = 0) ∧
      (r.cls = .nan ↔ r.exp.toNat = 255 ∧ r.frac.toNat ≠ 0) ∧
      (r.edge = true ↔ r.cls ≠ .normal)

/-- The decoder's value (R224, R225, R227): the exact rational of the formula for a NORMAL word in both modes, with its
range, and for every word under `FORMULA`; the edge values under `IEEE`. That the rationals are in lowest terms (the
clauses on `q.den` and `Coprime`) is the model's choice, log entry 22. -/
def Obligations.FloatValueIsExact : Prop :=
  ∀ (mode : FpEdgeMode) (w : Word),
    let r := decodeFloat mode w
    let s : Rat := if w.getLsbD 31 then -1 else 1
    let e := (w.extractLsb' 23 8).toNat
    let f := (w.extractLsb' 0 23).toNat
    (((1 ≤ e ∧ e ≤ 254) ∨ mode = .formula) →
      ∃ q : Ratio, r.value = .exact q ∧ q.toRat = s * (2 ^ 23 + (f : Rat)) * 2 ^ ((e : Int) - 150) ∧
        0 < q.den ∧ Nat.Coprime q.num.natAbs q.den) ∧
    ((1 ≤ e ∧ e ≤ 254) → ∀ q : Ratio, r.value = .exact q →
      (2 : Rat) ^ (-126 : Int) ≤ |q.toRat| ∧ |q.toRat| ≤ (2 ^ 24 - 1) * 2 ^ 104) ∧
    (mode = .ieee → e = 0 → f = 0 → r.value = .signedZero (w.getLsbD 31)) ∧
    (mode = .ieee → e = 0 → f ≠ 0 →
      ∃ q : Ratio, r.value = .exact q ∧ q.toRat = s * (f : Rat) * 2 ^ (-149 : Int) ∧
        0 < q.den ∧ Nat.Coprime q.num.natAbs q.den) ∧
    (mode = .ieee → e = 255 → f = 0 → r.value = .infinite (w.getLsbD 31)) ∧
    (mode = .ieee → e = 255 → f ≠ 0 → r.value = .nan (w.getLsbD 31) (w.extractLsb' 0 23))

/-- The two modes agree on every NORMAL word, and on everything but the value of every word (R228). -/
def Obligations.FpModesAgreeOnNormalWords : Prop :=
  ∀ w : Word,
    let i := decodeFloat .ieee w
    let f := decodeFloat .formula w
    (i.cls = .normal → i.value = f.value) ∧
    i.word = f.word ∧ i.sign = f.sign ∧ i.exp = f.exp ∧ i.frac = f.frac ∧ i.cls = f.cls ∧ i.edge = f.edge

/-- Under `IEEE` no two words have one value, so the value gives the word back (R226; the sign of a NaN is part of the
model's value). -/
def Obligations.IeeeValueDeterminesTheWord : Prop :=
  ∀ w w' : Word, (decodeFloat .ieee w).value = (decodeFloat .ieee w').value → w = w'

/-- PERM completes in the accepting step for every operand: the lane of physical slot `i` comes out at logical slot
`P(i)`, the pairs being the document's list (R250, R251). -/
def Obligations.PermCompletes : Prop :=
  ∀ (s : State) (v : Lanes), s.blk.phase = .idle →
    ∃ out : Lanes,
      exec (.perm v) s = .next { s with
        blk := { s.blk with lasterr := ⟨.ok, .idle, 0, none⟩ }
        responses := ⟨.ok, none, none, some out, .idle, 0, none⟩ :: s.responses } ∧
      ∀ p ∈ [(1, 1), (2, 2), (3, 3), (4, 4), (5, 5), (6, 6), (7, 7), (8, 8), (13, 9), (14, 11), (9, 10), (10, 12),
          (15, 13), (16, 14), (17, 15), (18, 16), (11, 17), (12, 18)],
        out[p.2 - 1]? = v[p.1 - 1]?

/-- `P` is a bijection with inverse `Q`, and the two reorderings undo each other (R254, R256). -/
def Obligations.ReorderRoundTrips : Prop :=
  (∀ k : Fin 18, permTable[permInverse[k]] = k ∧ permInverse[permTable[k]] = k) ∧
  (∀ v : Lanes, reorder (reorderInverse v) = v ∧ reorderInverse (reorder v) = v)

/-- The cycle structure (R256): slots 1 to 8 are fixed, ten applications are the identity and no fewer are, and PERM is
not its own inverse. -/
def Obligations.ReorderHasOrderTen : Prop :=
  (∀ (v : Lanes) (j : Fin 18), j.val < 8 → (reorder v)[j] = v[j]) ∧
  (∀ v : Lanes, reorder^[10] v = v) ∧
  (∀ n, 0 < n → n < 10 → ∃ v : Lanes, reorder^[n] v ≠ v) ∧
  (∃ v : Lanes, reorder v ≠ reorderInverse v)

/-! ## The phases -/

/-- The four polling loops (R152, R157, R159, R161, R163): ready, failed, timed out, transport error. The transport error
comes before the ready test and before the timeout (R278). -/
def Obligations.PollingPhasesFollowPollStep : Prop :=
  PollRule .rdPollTx 1 false .rdCmd .timeoutRdTx ∧
  PollRule .rdPollRx 0 true .rdFetch .timeoutRdRx ∧
  PollRule .wrPollTx1 1 false .wrCmd .timeoutWrAddr ∧
  PollRule .wrPollTx2 1 false .wrData .timeoutWrData

/-- `RD_STALE_STAT` (R155). -/
def Obligations.StaleStatusCheck : Prop :=
  ∀ s s1 : State, s.blk.phase = .rdStaleStat →
    (∀ info reached, s.busReadStatus = (.err info reached, s1) →
      exec .busRdStatus s = .next (afterFailure s s1 info)) ∧
    (∀ v, s.busReadStatus = (.ok v, s1) → v.getLsbD 0 = true →
      exec .busRdStatus s = .next { s1 with blk := { s.blk with phase := .rdStaleDiscard } }) ∧
    (∀ v, s.busReadStatus = (.ok v, s1) → v.getLsbD 0 = false →
      exec .busRdStatus s = .next { s1 with blk := { s.blk with phase := .rdPollTx, pcnt := 0 } })

/-- `RD_STALE_DISCARD` (R156), `RD_CMD` (R158), `WR_CMD` (R162): the byte read is discarded, the command byte is written,
and the next polling loop is entered. -/
def Obligations.SingleTransactionPhasesAdvance : Prop :=
  ∀ s s1 : State,
    (s.blk.phase = .rdStaleDiscard →
      (∀ info reached, s.busReadRead = (.err info reached, s1) →
        exec .busRdRead s = .next (afterFailure s s1 info)) ∧
      (∀ v, s.busReadRead = (.ok v, s1) →
        exec .busRdRead s = .next { s1 with blk := { s.blk with phase := .rdPollTx, pcnt := 0 } })) ∧
    (∀ b, s.blk.phase = .rdCmd →
      (∀ info reached, s.busWrite b = (.err info reached, s1) →
        exec (.busWrWrite b) s = .next (afterFailure s s1 info)) ∧
      (∀ v, s.busWrite b = (.ok v, s1) →
        exec (.busWrWrite b) s = .next { s1 with blk := { s.blk with phase := .rdPollRx, pcnt := 0 } })) ∧
    (∀ b, s.blk.phase = .wrCmd →
      (∀ info reached, s.busWrite b = (.err info reached, s1) →
        exec (.busWrWrite b) s = .next (afterFailure s s1 info)) ∧
      (∀ v, s.busWrite b = (.ok v, s1) →
        exec (.busWrWrite b) s = .next { s1 with blk := { s.blk with phase := .wrPollTx2, pcnt := 0 } }))

/-- `RD_FETCH` (R160) completes a VREAD with the byte READ returned, unchanged, and leaves `S.sel` (R166). -/
def Obligations.FetchCompletesTheRead : Prop :=
  ∀ s s1 : State, s.blk.phase = .rdFetch → s.blk.op = some .vread →
    (∀ info reached, s.busReadRead = (.err info reached, s1) →
      exec .busRdRead s = .next (afterFailure s s1 info)) ∧
    (∀ v, s.busReadRead = (.ok v, s1) →
      exec .busRdRead s = .next { s1 with
        blk := { s.blk with phase := .idle, pcnt := 0, lasterr := ⟨.ok, .idle, 0, none⟩ }
        responses := okResponse (some v) :: s.responses })

/-- `WR_DATA` (R164) completes a VWRITE or a SELECT, with the completion effect on `S.sel` (R166, R202, R204). -/
def Obligations.PayloadCompletesTheWrite : Prop :=
  ∀ (s s1 : State) (b : Byte), s.blk.phase = .wrData →
    (∀ info reached, s.busWrite b = (.err info reached, s1) →
      exec (.busWrWrite b) s = .next (afterFailure s s1 info)) ∧
    (∀ v (sel : BitVec 2), s.busWrite b = (.ok v, s1) →
      (s.blk.op = some .select ∧ s.blk.dev = some sel) ∨
        (s.blk.op = some .vwrite ∧ s.blk.addr = some 0x4F#7 ∧ sel = 3) ∨
        (∃ a, s.blk.op = some .vwrite ∧ s.blk.addr = some a ∧ a ≠ 0x4F#7 ∧ sel = s.blk.sel) →
      exec (.busWrWrite b) s = .next { s1 with
        blk := { s.blk with phase := .idle, pcnt := 0, sel := sel, lasterr := ⟨.ok, .idle, 0, none⟩ }
        responses := okResponse none :: s.responses })

/-- The bus primitives complete in every state whose latched request is there (R150, R174 to R176): one event of one
transaction is recorded, followed by at most one delay, and the transaction itself leaves the block, the port, the
responses and the parameters alone. In a phase that does not issue it, a primitive is the transaction alone (R174;
log entry 13). -/
def Obligations.BusPrimitivesComplete : Prop :=
  ∀ s : State,
    (∃ t, exec .busRdStatus s = .next t ∧
      (t.trace = readEvent .status s.busReadStatus.1 :: s.trace ∨
        t.trace = .dly :: readEvent .status s.busReadStatus.1 :: s.trace) ∧
      t.params = s.params ∧ t.port = s.port ∧ t.inputs = s.inputs ∧ t.dev = s.busReadStatus.2.dev ∧
      t.blk.sel = s.blk.sel ∧ t.blk.op = s.blk.op ∧ t.blk.addr = s.blk.addr ∧ t.blk.data = s.blk.data ∧
      t.blk.dev = s.blk.dev ∧
      (s.blk.phase ≠ .rdStaleStat → s.blk.phase.isPolling = false → t = s.busReadStatus.2 ∧ t.blk = s.blk ∧
        t.responses = s.responses)) ∧
    ((s.blk.phase = .rdFetch → s.blk.latchOk s.params.devCode = true) →
      ∃ t, exec .busRdRead s = .next t ∧
        t.trace = readEvent .read s.busReadRead.1 :: s.trace ∧
        t.params = s.params ∧ t.port = s.port ∧ t.inputs = s.inputs ∧ t.dev = s.busReadRead.2.dev ∧
        t.blk.sel = s.blk.sel ∧ t.blk.op = s.blk.op ∧ t.blk.addr = s.blk.addr ∧ t.blk.data = s.blk.data ∧
        t.blk.dev = s.blk.dev ∧
        (s.blk.phase ≠ .rdStaleDiscard → s.blk.phase ≠ .rdFetch → t = s.busReadRead.2 ∧ t.blk = s.blk ∧
          t.responses = s.responses)) ∧
    (∀ b, (s.blk.phase = .wrData → s.blk.latchOk s.params.devCode = true) →
      ∃ t, exec (.busWrWrite b) s = .next t ∧
        t.trace = writeEvent b (s.busWrite b).1 :: s.trace ∧
        t.params = s.params ∧ t.port = s.port ∧ t.inputs = s.inputs ∧ t.dev = (s.busWrite b).2.dev ∧
        t.blk.op = s.blk.op ∧ t.blk.addr = s.blk.addr ∧ t.blk.data = s.blk.data ∧ t.blk.dev = s.blk.dev ∧
        (s.blk.phase ≠ .wrData → t.blk.sel = s.blk.sel) ∧
        (s.blk.phase ≠ .rdCmd → s.blk.phase ≠ .wrCmd → s.blk.phase ≠ .wrData → t = (s.busWrite b).2 ∧
          t.blk = s.blk ∧ t.responses = s.responses))

/-- The block tests bits 0 and 1 of STATUS alone: two status bytes that agree there have one effect on the block in every
phase (R47). -/
def Obligations.OnlyStatusBitsZeroAndOneMatter : Prop :=
  ∀ (s : State) (v v' : Byte), v.getLsbD 0 = v'.getLsbD 0 → v.getLsbD 1 = v'.getLsbD 1 →
    (s.afterStatus (.ok v)) = (s.afterStatus (.ok v'))

/-! ## The environment -/

/-- The oracle answers with whatever its script says: no answer that R8 and R72 allow is shut out, and none touches the
device. That the answer is the head of a script is the model's choice, log entry 4, and that the oracle is an
environment of its own, beside the device, is log entry 5. -/
def Obligations.OracleAnswersAnything : Prop :=
  ∀ (s : State) (a : BusAnswer) (rest : List BusAnswer), s.env = .oracle → s.answers = a :: rest →
    s.busReadStatus = (a, { s with answers := rest, trace := readEvent .status a :: s.trace }) ∧
    s.busReadRead = (a, { s with answers := rest, trace := readEvent .read a :: s.trace }) ∧
    (∀ b, s.busWrite b = (a, { s with answers := rest, trace := writeEvent b a :: s.trace }))

/-- The device of R49 answering (R45, R46, R72, R87, R117): STATUS shows both flags and changes no register, a READ read
gives the byte and clears `RX_VALID`, a WRITE write leaves its byte with `TX_VALID` set. It speaks of transactions that do
not fail, of a READ that holds a byte and of a WRITE that is free. The model's choices in it: STATUS bits [7:2] are the
field `statusHi` (log entry 29), and with an empty script the device answers (log entry 28). -/
def Obligations.DeviceAnswersFromItsRegisters : Prop :=
  ∀ s : State, s.env = .device → s.answers = [] →
    (∃ v, s.busReadStatus = (.ok v, { s with trace := .rd .status v :: s.trace }) ∧
      v.getLsbD 0 = s.dev.outbound.isSome ∧ v.getLsbD 1 = s.dev.inbound.isSome ∧
      v.extractLsb' 2 6 = s.dev.statusHi) ∧
    (∀ v, s.dev.outbound = some v →
      s.busReadRead.1 = .ok v ∧ s.busReadRead.2.dev = { s.dev with outbound := none } ∧
      s.busReadRead.2.trace = .rd .read v :: s.trace) ∧
    (∀ b, s.dev.inbound = none →
      ∃ x, s.busWrite b = (.ok x, { s with dev := { s.dev with inbound := some b }, trace := .wr .write b :: s.trace }))

/-- The reference device's answers (R104), under the default `DEVCODE` and a DEVSEL that names a die. A register `a` of the
die coded `c` is the cell `128 c + a` (log entry 20). -/
def Obligations.ReferenceDeviceAnswers : Prop :=
  ∀ s : State, s.env = .reference → s.params.devCode = ⟨0, 1, 2⟩ → s.dev.devsel ≠ 3 → s.dev.vreg.wf = true →
    (∃ v, s.busReadStatus.1 = .ok v ∧
      v.toNat = (if 0 < s.dev.txb then 2 else 0) + (if s.dev.outbound ≠ none ∧ s.dev.rxw = 0 then 1 else 0) ∧
      s.busReadStatus.2.dev = { s.dev with
        txb := s.dev.txb - 1
        rxw := if s.dev.outbound ≠ none then s.dev.rxw - 1 else s.dev.rxw }) ∧
    (∀ v, s.dev.outbound = some v → s.dev.rxw = 0 →
      s.busReadRead.1 = .ok v ∧ s.busReadRead.2.dev = { s.dev with outbound := none }) ∧
    (s.dev.outbound = none ∨ 0 < s.dev.rxw → s.busReadRead.1 = .ok 0 ∧ s.busReadRead.2.dev = s.dev) ∧
    (∀ b, s.dev.txb = 0 → ∃ x, (s.busWrite b).1 = .ok x) ∧
    (∀ b a, s.dev.txb = 0 → s.dev.slot = .wr a →
      (s.busWrite b).2.dev.slot = .empty ∧ (s.busWrite b).2.dev.txb = s.params.ltx ∧
      (s.busWrite b).2.dev.outbound = s.dev.outbound ∧ (s.busWrite b).2.dev.rxw = s.dev.rxw ∧
      (s.busWrite b).2.dev.devsel = (if a = 0x4F#7 then b.extractLsb' 0 2 else s.dev.devsel) ∧
      ∀ key, (s.busWrite b).2.dev.vreg.read key =
        if a ≠ 0x4F#7 ∧ key = s.dev.devsel.toNat * 128 + a.toNat then b else s.dev.vreg.read key) ∧
    (∀ b, s.dev.txb = 0 → (∀ a, s.dev.slot ≠ .wr a) → b.getLsbD 7 = true →
      (s.busWrite b).2.dev = { s.dev with slot := .wr (b.extractLsb' 0 7), txb := s.params.ltx }) ∧
    (∀ b, s.dev.txb = 0 → (∀ a, s.dev.slot ≠ .wr a) → b.getLsbD 7 = false →
      (s.busWrite b).2.dev = { s.dev with
        slot := .empty
        txb := s.params.ltx
        rxw := s.params.lrx
        outbound := some (if b.extractLsb' 0 7 = 0x4F#7 then 0#6 ++ s.dev.devsel
          else s.dev.vreg.read (s.dev.devsel.toNat * 128 + (b.extractLsb' 0 7).toNat)) })

/-- Routing (R79): the die whose `DEVCODE` equals DEVSEL, and no die where DEVSEL holds a code none has. -/
def Obligations.RoutingFollowsDevcode : Prop :=
  ∀ p : Params, p.wf = true →
    (∀ die, routedDie p.devCode (codeOfDie p.devCode die) = some die) ∧
    (∀ c, routedDie p.devCode c = none ↔ ∀ die, codeOfDie p.devCode die ≠ c)

/-- RDCMD completes in every state (R97): READ holds a byte and `RX_VALID` is set, the slot is free, and nothing else of
the machine changes but the reference device's latency count and the free-value counter. Where READ was empty the byte
is the addressed register's: the routed die's cell, or DEVSEL at 0x4F. -/
def Obligations.ReadCommandPlacesTheByte : Prop :=
  ∀ (s : State) (a : VAddr),
    ∃ (v : Byte) (rxw fresh : Nat),
      exec (.rdcmd a) s = .next { s with
        dev := { s.dev with outbound := some v, slot := .empty, rxw := rxw }
        fresh := fresh } ∧
      (s.env ≠ .reference → rxw = s.dev.rxw) ∧
      (s.dev.outbound = none ∨ s.env = .reference →
        (∀ die, a ≠ 0x4F#7 → routedDie s.params.devCode s.dev.devsel = some die →
          (isListed a = true ∨ s.env = .reference) → v = s.dev.vreg.read (vregKey die a)) ∧
        (a = 0x4F#7 → v.extractLsb' 0 2 = s.dev.devsel))

/-- WRCMD completes in every state (R98): the payload goes to the addressed register and to no other byte, the slot and
WRITE are free, READ is untouched (no acknowledgement), and the block, the port, the trace and the responses do not
change. A full code written to 0x4F takes effect (R102). -/
def Obligations.WriteCommandWritesTheRegister : Prop :=
  ∀ (s : State) (a : VAddr) (b : Byte), s.dev.vreg.wf = true →
    ∃ t, exec (.wrcmd a b) s = .next t ∧
      t = { s with
        dev := { s.dev with slot := .empty, inbound := none, devsel := t.dev.devsel, vreg := t.dev.vreg }
        env := t.env
        fresh := t.fresh } ∧
      (∀ die, a ≠ 0x4F#7 → routedDie s.params.devCode s.dev.devsel = some die →
        (isListed a = true ∨ s.env = .reference) →
        t.env = s.env ∧ t.dev.devsel = s.dev.devsel ∧
        ∀ key, t.dev.vreg.read key = if key = vregKey die a then b else s.dev.vreg.read key) ∧
      (a = 0x4F#7 → t.env = s.env ∧ t.dev.vreg = s.dev.vreg ∧
        ∀ die, b = 0#6 ++ codeOfDie s.params.devCode die → t.dev.devsel = codeOfDie s.params.devCode die) ∧
      (a ≠ 0x4F#7 → t.dev.devsel = s.dev.devsel) ∧
      (a ≠ 0x4F#7 → (routedDie s.params.devCode s.dev.devsel = none ∨ (isListed a = false ∧ s.env ≠ .reference)) →
        t.env = .oracle ∧ t.dev.vreg = s.dev.vreg)

/-- What the three bus transactions store (R87, R104): the reads store nothing; a write of WRITE stores to a virtual register
only where the reference device takes the byte as the payload of a write in flight, and then at the addressed register of
the routed die alone, or to DEVSEL at 0x4F. The device of R49 stores when it carries the command out
(`WriteCommandWritesTheRegister`). The spec leaves open what a write does where no die is routed (I7), to a reference
device with `txb > 0` (R104) and over a byte not yet consumed (I10): that no register changes then is the model's choice,
log entries 16, 20 and 15. -/
def Obligations.BusTransactionsStoreWhereTheSlotSays : Prop :=
  ∀ s : State, s.dev.vreg.wf = true →
    (∀ t, exec .busRdStatus s = .next t → t.dev.vreg = s.dev.vreg ∧ t.dev.devsel = s.dev.devsel ∧
      t.dev.slot = s.dev.slot ∧ t.dev.inbound = s.dev.inbound ∧ t.dev.outbound = s.dev.outbound) ∧
    (∀ t, exec .busRdRead s = .next t → t.dev.vreg = s.dev.vreg ∧ t.dev.devsel = s.dev.devsel ∧
      t.dev.slot = s.dev.slot ∧ t.dev.inbound = s.dev.inbound ∧
      (t.dev.outbound = s.dev.outbound ∨ t.dev.outbound = none)) ∧
    (∀ b t, exec (.busWrWrite b) s = .next t →
      (∀ a die, s.env = .reference → s.dev.txb = 0 → s.dev.slot = .wr a → a ≠ 0x4F#7 →
        routedDie s.params.devCode s.dev.devsel = some die →
        ∀ key, t.dev.vreg.read key = if key = vregKey die a then b else s.dev.vreg.read key) ∧
      (s.env ≠ .reference ∨ 0 < s.dev.txb ∨ (∀ a, s.dev.slot = .wr a → a = 0x4F#7) ∨
          routedDie s.params.devCode s.dev.devsel = none →
        t.dev.vreg = s.dev.vreg) ∧
      (s.env = .reference → s.dev.txb = 0 → s.dev.slot = .wr 0x4F#7 → t.dev.devsel = b.extractLsb' 0 2) ∧
      (s.env ≠ .reference ∨ 0 < s.dev.txb ∨ s.dev.slot ≠ .wr 0x4F#7 → t.dev.devsel = s.dev.devsel))

/-- No step changes a virtual register but the one that the write in flight addresses, on the die DEVSEL routes to (R79,
R98), and none changes DEVSEL but with a write of 0x4F in flight (R80), unless the device is said to change on its own
(R101, R103). Where the spec allows any device effect (a write to an unlisted address or with no die routed, I6, I7, a
protocol violation, I10, a write to a busy reference device, R104), that no register changes is the model's choice, log
entries 16, 15 and 20. -/
def Obligations.RegistersChangeOnlyWhereAWriteIsInFlight : Prop :=
  ∀ s t : State, s.dev.vreg.wf = true → step s = .next t →
    (∃ d more, s.inputs = .deviceChanges d :: more) ∨
    ((∀ key, t.dev.vreg.read key = s.dev.vreg.read key ∨
      ∃ a die, s.dev.slot = .wr a ∧ a ≠ 0x4F#7 ∧ routedDie s.params.devCode s.dev.devsel = some die ∧
        key = vregKey die a) ∧
      (t.dev.devsel = s.dev.devsel ∨ s.dev.slot = .wr 0x4F#7))

/-! ## Whole-machine rules -/

/-- No step changes a parameter (R39). -/
def Obligations.ParametersNeverChange : Prop :=
  ∀ s t : State, step s = .next t → t.params = s.params

/-- `S.sel` (R35): its three writers are a SELECT that completes, a VWRITE to 0x4F that completes, and reset; and it is a
record only, since a step from a state with another record does the same but for the record. The premise rules out a read
phase without a latched VREAD, which no run reaches (`StepKeepsTheInvariant`). -/
def Obligations.SelectionHasThreeWriters : Prop :=
  (∀ s t : State, s.blk.latchOk s.params.devCode = true → step s = .next t →
    t.blk.sel = s.blk.sel ∨
    (∃ more, s.inputs = .reset :: more ∧ t.blk.sel = 3) ∨
    (s.blk.phase = .wrData ∧ t.responses = okResponse none :: s.responses ∧
      ((s.blk.op = some .select ∧ s.blk.dev = some t.blk.sel) ∨
        (s.blk.op = some .vwrite ∧ s.blk.addr = some 0x4F#7 ∧ t.blk.sel = 3)))) ∧
  (∀ (s t : State) (x : BitVec 2), step s = .next t →
    ∃ y, step { s with blk := { s.blk with sel := x } } = .next { t with blk := { t.blk with sel := y } }) ∧
  State.reset.blk.sel = 3

/-- The latched request is written only by a step that accepts a VREAD, VWRITE or SELECT, or by reset (R33). -/
def Obligations.LatchIsWrittenAtAcceptance : Prop :=
  ∀ s t : State, step s = .next t →
    (t.blk.op = s.blk.op ∧ t.blk.addr = s.blk.addr ∧ t.blk.data = s.blk.data ∧ t.blk.dev = s.blk.dev) ∨
    (∃ more, s.inputs = .reset :: more) ∨
    (s.blk.phase = .idle ∧ t.blk.phase ≠ .idle ∧ ∃ r rest i, s.port = r :: rest ∧ t.port = rest ∧
      decode (.req r) = .ok i ∧
      ((∃ a, i = .vread a) ∨ (∃ a d, i = .vwrite a d) ∨ (∃ d, i = .select d ∧ d ≠ 3)))

/-- A step makes at most one bus transaction, and at most one delay after it (R7, R150): none where the block does not
move or stands in `IDLE`, exactly one otherwise. -/
def Obligations.StepMakesAtMostOneTransaction : Prop :=
  ∀ s t : State, step s = .next t →
    ((s.blk.phase = .idle ∨ ∀ s0, ¬ s.blockTurn s0) ∧ t.trace = s.trace) ∨
    (s.blk.phase ≠ .idle ∧ (∃ s0, s.blockTurn s0) ∧ ∃ e : Event, e.isTxn = true ∧ (t.trace = e :: s.trace ∨ t.trace = .dly :: e :: s.trace))

/-- The delay comes after every failed poll that another poll of the same loop follows, and nowhere else (R154). -/
def Obligations.DelayFollowsExactlyFailedPolls : Prop :=
  ∀ s t : State, step s = .next t →
    ((∃ e, t.trace = .dly :: e :: s.trace) ↔
      (s.blk.phase.isPolling = true ∧ t.blk.phase = s.blk.phase ∧ t.blk.pcnt = s.blk.pcnt + 1))

/-- An operation ends with exactly one response, and then the block is in `IDLE` (R270, R280): a step that delivers none,
and is no reset, neither ends the operation under way nor accepts a request that ends there, and leaves `S.lasterr` as it
was (R36). An error keeps `S.sel` and the latched request (R279). -/
def Obligations.AnOperationEndsInIdleWithOneResponse : Prop :=
  ∀ s t : State, step s = .next t →
    (t.responses = s.responses ∧
      ((∃ more, s.inputs = .reset :: more) ∨
        (t.blk.lasterr = s.blk.lasterr ∧
          (s.blk.phase ≠ .idle ∨ t.port.length < s.port.length → t.blk.phase ≠ .idle)))) ∨
    ∃ r : Response, t.responses = r :: s.responses ∧ t.blk.phase = .idle ∧ t.blk.lasterr = r.record ∧
      (r.code ≠ .ok → t.blk.sel = s.blk.sel ∧ t.blk.op = s.blk.op ∧ t.blk.addr = s.blk.addr ∧
        t.blk.data = s.blk.data ∧ t.blk.dev = s.blk.dev)

/-- Block reset (R310): every field of `S` at its reset value, `BLKSTAT` 0x00030000, an operation in flight gets no
response, no bus transaction, and the device and the parameters stay. -/
def Obligations.ResetSetsEveryBlockField : Prop :=
  (∀ (s : State) (more : List Input), s.inputs = .reset :: more →
    step s = .next { s with
      inputs := more
      blk := { phase := .idle, op := none, addr := none, data := none, dev := none, pcnt := 0, sel := 3,
               lasterr := ⟨.ok, .idle, 0, none⟩ } }) ∧
  State.reset.blk = Block.reset ∧
  Block.reset.blkstat = 0x00030000#32

/-- `BLKSTAT` (R38), field by field, with `BUSY` (R32) and the numbers of the response codes (R271). -/
def Obligations.BlkstatPacksItsFields : Prop :=
  (∀ b : Block,
    b.blkstat.extractLsb' 0 4 = b.phase.code ∧
    b.blkstat.getLsbD 4 = decide (b.phase ≠ .idle) ∧
    b.blkstat.extractLsb' 5 3 = 0#3 ∧
    b.blkstat.extractLsb' 8 4 = b.lasterr.code.code ∧
    b.blkstat.extractLsb' 12 4 = b.lasterr.phase.code ∧
    b.blkstat.extractLsb' 16 2 = b.sel ∧
    b.blkstat.extractLsb' 18 14 = 0#14) ∧
  ([RespCode.ok, .timeoutRdTx, .timeoutRdRx, .timeoutWrAddr, .timeoutWrData, .invalidDevice, .invalidParameter,
      .transportError, .illegalRequest].map fun c => c.code.toNat) = [0, 1, 2, 3, 4, 5, 6, 7, 8] ∧
  (∀ c : RespCode, c.code.toNat ≤ 8) ∧
  Block.reset.blkstat = 0x00030000#32

/-! ## Invariants -/

/-- The state after reset meets the invariant. -/
def Obligations.ResetMeetsTheInvariant : Prop := State.reset.Inv

/-- Every step keeps the invariant: parameters legal, the latched request there when a phase reads it, `S.pcnt` below its
bound, the bus used safely, every record and response legal, the register files in canonical form. -/
def Obligations.StepKeepsTheInvariant : Prop :=
  ∀ s t : State, s.Inv → step s = .next t → t.Inv

/-- Write safety and read safety (R179, R180) and the access rights (R71), for every environment: they hold of the whole
trace after every step. -/
def Obligations.StepKeepsTheBusSafe : Prop :=
  ∀ s t : State, s.busSafe = true → step s = .next t →
    t.busSafe = true ∧ writesFollowReady t.trace = true ∧ readsFollowValid t.trace = true

/-- `S.pcnt` (R34): 0 outside polling loops, below `POLL_LIMIT` between two polls of one, 0 where a loop is entered, exactly
one more after each poll that the loop goes on from, and untouched by a step that polls nothing and ends nothing. -/
def Obligations.PollCountStaysBelowTheLimit : Prop :=
  ∀ s t : State, s.params.wf = true → s.blk.pollsOk s.params.pollLimit = true → step s = .next t →
    t.blk.pollsOk t.params.pollLimit = true ∧
    (t.blk.pcnt = 0 ∨ t.blk.pcnt = s.blk.pcnt ∨
      (s.blk.phase.isPolling = true ∧ t.blk.phase = s.blk.phase ∧ t.blk.pcnt = s.blk.pcnt + 1)) ∧
    (s.blk.phase.isPolling = true → t.blk.phase = s.blk.phase → t.trace ≠ s.trace → t.blk.pcnt = s.blk.pcnt + 1) ∧
    (t.blk.phase.isPolling = true → t.blk.phase ≠ s.blk.phase → t.blk.pcnt = 0) ∧
    (t.blk.phase = s.blk.phase → t.trace = s.trace → t.blk.pcnt = s.blk.pcnt)

/-- No state that meets the invariant stops: every step of it answers a next state. -/
def Obligations.NothingStopsUnderTheInvariant : Prop :=
  ∀ s : State, s.Inv → ∃ t, step s = .next t ∧ t.Inv

/-! ## Runs -/

/-- Bounded polling (R181): with `POLL_LIMIT = N`, a `RD_POLL_RX` loop whose first N status reads all have `s[0] = 0` ends
with `TIMEOUT_RD_RX` after exactly N reads and N − 1 delays, and no further transaction; and likewise every polling loop
with its own condition and code. The environment is the oracle, whose script gives the reads (log entry 4); one poll with
any environment is `PollingPhasesFollowPollStep`'s. -/
def Obligations.PollingLoopTimesOut : Prop :=
  ∀ (p : Phase) (bit : Nat) (want : Bool) (timeout : RespCode),
    (p = .rdPollTx ∧ bit = 1 ∧ want = false ∧ timeout = .timeoutRdTx) ∨
      (p = .rdPollRx ∧ bit = 0 ∧ want = true ∧ timeout = .timeoutRdRx) ∨
      (p = .wrPollTx1 ∧ bit = 1 ∧ want = false ∧ timeout = .timeoutWrAddr) ∨
      (p = .wrPollTx2 ∧ bit = 1 ∧ want = false ∧ timeout = .timeoutWrData) →
    ∀ (s : State) (polls : List Byte) (last : Byte) (more : List BusAnswer),
      s.env = .oracle → s.inputs = [] → s.blk.phase = p → s.blk.pcnt = 0 →
      s.params.pollLimit = .reads (polls.length + 1) →
      (∀ v ∈ polls, v.getLsbD bit ≠ want) → last.getLsbD bit ≠ want →
      s.answers = polls.map .ok ++ .ok last :: more →
      runFor (polls.length + 1) s = .next { s with
        answers := more
        trace := .rd .status last :: (failedPolls polls ++ s.trace)
        blk := { s.blk with phase := .idle, pcnt := 0, lasterr := ⟨timeout, p, polls.length + 1, none⟩ }
        responses := ⟨timeout, none, none, none, p, polls.length + 1, none⟩ :: s.responses }

/-- Under `POLL_LIMIT = INF` a loop whose ready condition never holds polls for ever (R182): after any number of status
reads it is still polling and has delivered no response. The environment is the oracle, whose script gives the reads (log
entry 4). -/
def Obligations.UnboundedPollingNeverEnds : Prop :=
  ∀ (s : State) (polls : List Byte) (more : List BusAnswer),
    s.env = .oracle → s.inputs = [] → s.params.pollLimit = .inf → s.answers = polls.map .ok ++ more →
    ((s.blk.phase = .rdPollRx ∧ ∀ v ∈ polls, v.getLsbD 0 = false) ∨
      ((s.blk.phase = .rdPollTx ∨ s.blk.phase = .wrPollTx1 ∨ s.blk.phase = .wrPollTx2) ∧
        ∀ v ∈ polls, v.getLsbD 1 = true)) →
    runFor polls.length s = .next { s with
      answers := more
      trace := failedPolls polls ++ s.trace
      blk := { s.blk with pcnt := s.blk.pcnt + polls.length } }

/-- Termination of a read (R183): with `POLL_LIMIT = N` and any environment, a VREAD that is offered in `IDLE` has its
response within `2N + 5` steps of the block. This assumes, as R183 does, that each transaction returns, which every
transaction of the model does (log entry 21). -/
def Obligations.ReadEndsWithinItsBound : Prop :=
  ∀ (s : State) (n : Nat) (r : Request) (rest : List Request) (a : VAddr),
    s.inputs = [] → s.params.pollLimit = .reads n → 1 ≤ n → s.blk.phase = .idle → s.port = r :: rest →
    decode (.req r) = .ok (.vread a) →
    ∃ k t resp, k ≤ 2 * n + 5 ∧ runFor k s = .next t ∧ t.blk.phase = .idle ∧ t.responses = resp :: s.responses ∧
      t.port = rest

/-- Termination of a write (R183): VWRITE and SELECT have their response within `2N + 3` steps of the block. This assumes, as
R183 does, that each transaction returns, which every transaction of the model does (log entry 21). -/
def Obligations.WriteEndsWithinItsBound : Prop :=
  ∀ (s : State) (n : Nat) (r : Request) (rest : List Request) (i : Instr),
    s.inputs = [] → s.params.pollLimit = .reads n → 1 ≤ n → s.blk.phase = .idle → s.port = r :: rest →
    decode (.req r) = .ok i → ((∃ a d, i = .vwrite a d) ∨ ∃ d, i = .select d) →
    ∃ k t resp, k ≤ 2 * n + 3 ∧ runFor k s = .next t ∧ t.blk.phase = .idle ∧ t.responses = resp :: s.responses ∧
      t.port = rest

/-- The read handshake end to end (R170, R171): the status byte `s0`, the stale byte if it shows one, the failed polls, the
command byte, the failed polls, the byte; the response carries it. It is the shape of a VREAD that succeeds, with the
oracle's script (log entry 4). -/
def Obligations.ReadHandshakeTrace : Prop :=
  ∀ (s : State) (r : Request) (rest : List Request) (a : VAddr) (s0 t u v : Byte) (stale : Option Byte)
    (polls1 polls2 : List Byte) (ack : Byte) (more : List BusAnswer),
    s.env = .oracle → s.inputs = [] → s.blk.phase = .idle → s.port = r :: rest → decode (.req r) = .ok (.vread a) →
    s0.getLsbD 0 = stale.isSome → t.getLsbD 1 = false → u.getLsbD 0 = true →
    (∀ p ∈ polls1, p.getLsbD 1 = true) → (∀ p ∈ polls2, p.getLsbD 0 = false) →
    limitAllows s.params.pollLimit polls1.length → limitAllows s.params.pollLimit polls2.length →
    s.answers = .ok s0 :: (stale.toList.map .ok ++ (polls1.map .ok ++ .ok t :: .ok ack ::
      (polls2.map .ok ++ .ok u :: .ok v :: more))) →
    runFor (6 + stale.toList.length + polls1.length + polls2.length) s = .next { s with
      port := rest
      answers := more
      trace := .rd .read v :: .rd .status u :: (failedPolls polls2 ++ .wr .write (0#1 ++ a) :: .rd .status t ::
        (failedPolls polls1 ++ (stale.toList.map (.rd .read) ++ .rd .status s0 :: s.trace)))
      blk := { s.blk with phase := .idle, op := some .vread, addr := some a, pcnt := 0,
                          lasterr := ⟨.ok, .idle, 0, none⟩ }
      responses := okResponse (some v) :: s.responses }

/-- The write handshake end to end (R172, R173, R200 to R206): command byte and payload, each after a successful poll. A
VWRITE sends its byte and clears the record if it wrote DEVSEL; a SELECT sends 0x4F's command byte and its die's full
code, which is the last DEVSEL value written (R205), and records the die. It is the shape of an operation that succeeds,
with the oracle's script (log entry 4). -/
def Obligations.WriteHandshakeTrace : Prop :=
  ∀ (s : State) (r : Request) (rest : List Request) (i : Instr) (a : VAddr) (d : Byte) (t1 t2 : Byte)
    (polls1 polls2 : List Byte) (ack1 ack2 : Byte) (more : List BusAnswer) (latched : Block),
    s.env = .oracle → s.inputs = [] → s.blk.phase = .idle → s.port = r :: rest → decode (.req r) = .ok i →
    t1.getLsbD 1 = false → t2.getLsbD 1 = false →
    (∀ p ∈ polls1, p.getLsbD 1 = true) → (∀ p ∈ polls2, p.getLsbD 1 = true) →
    limitAllows s.params.pollLimit polls1.length → limitAllows s.params.pollLimit polls2.length →
    s.answers = polls1.map .ok ++ .ok t1 :: .ok ack1 :: (polls2.map .ok ++ .ok t2 :: .ok ack2 :: more) →
    ((i = .vwrite a d ∧ latched = { s.blk with
        op := some .vwrite, addr := some a, data := some d, sel := if a = 0x4F#7 then 3 else s.blk.sel }) ∨
      (∃ dev die, i = .select dev ∧ dieOfId dev = some die ∧ a = 0x4F#7 ∧
        d = 0#6 ++ codeOfDie s.params.devCode die ∧ latched = { s.blk with
          op := some .select, dev := some dev, addr := some 0x4F#7, data := some d, sel := dev })) →
    runFor (5 + polls1.length + polls2.length) s = .next { s with
      port := rest
      answers := more
      trace := .wr .write d :: .rd .status t2 :: (failedPolls polls2 ++ .wr .write (1#1 ++ a) :: .rd .status t1 ::
        (failedPolls polls1 ++ s.trace))
      blk := { latched with phase := .idle, pcnt := 0, lasterr := ⟨.ok, .idle, 0, none⟩ }
      responses := okResponse none :: s.responses }

/-- With the reference device (R104), whatever its latencies and whatever byte is left over, a VREAD under an unbounded
poll ends with `OK` and the addressed register's byte, and leaves the registers and the selection alone. The byte is
`readVirtual`'s, which `ReferenceDeviceAnswers` states under the default `DEVCODE`; which cell a register is under another
one is the model's choice, log entry 20. -/
def Obligations.ReferenceReadReturnsTheRegister : Prop :=
  ∀ (s : State) (r : Request) (rest : List Request) (a : VAddr),
    s.env = .reference → s.inputs = [] → s.params.pollLimit = .inf → s.blk.phase = .idle → s.port = r :: rest →
    decode (.req r) = .ok (.vread a) → (∀ x, s.dev.slot ≠ .wr x) →
    (a = 0x4F#7 ∨ routedDie s.params.devCode s.dev.devsel ≠ none) →
    ∃ k t, runFor k s = .next t ∧ t.blk.phase = .idle ∧ t.port = rest ∧
      t.responses = okResponse (some (s.readVirtual a)) :: s.responses ∧
      t.dev.vreg = s.dev.vreg ∧ t.dev.devsel = s.dev.devsel ∧ t.blk.sel = s.blk.sel

/-- With the reference device (R104), a SELECT of a die under an unbounded poll ends with `OK`, DEVSEL routes to the die, and
no register changes; and a routing stays (R80, R205): no step leaves it, whatever the environment, but with a write of 0x4F
in flight or where the device is said to change on its own. -/
def Obligations.ReferenceSelectRoutes : Prop :=
  (∀ (s : State) (r : Request) (rest : List Request) (dev : BitVec 2) (die : Die),
    s.env = .reference → s.inputs = [] → s.params.pollLimit = .inf → s.params.wf = true → s.blk.phase = .idle →
    s.port = r :: rest → decode (.req r) = .ok (.select dev) → dieOfId dev = some die →
    (∀ x, s.dev.slot ≠ .wr x) →
    ∃ k t, runFor k s = .next t ∧ t.blk.phase = .idle ∧ t.port = rest ∧
      t.responses = okResponse none :: s.responses ∧ t.blk.sel = dev ∧
      routedDie t.params.devCode t.dev.devsel = some die ∧ t.dev.vreg = s.dev.vreg) ∧
  (∀ (s t : State) (die : Die), step s = .next t → routedDie s.params.devCode s.dev.devsel = some die →
    s.dev.slot ≠ .wr 0x4F#7 → (∀ d more, s.inputs ≠ .deviceChanges d :: more) →
    routedDie t.params.devCode t.dev.devsel = some die)

/-! ## The bus registers -/

/-- The bus registers and their offsets (R10, R70), the descriptors of the three transactions (R121), and the accesses of
R71: whatever the environment, no step records a transaction but a read of STATUS or READ or a write of WRITE, done or
failed. -/
def Obligations.BusAccessesAreThoseOfTheTable : Prop :=
  ([BusReg.status, .write, .read].map fun r => r.offset.toNat) = [0x00, 0x01, 0x02] ∧
  (∀ r : BusReg, r.offset.toNat ≤ 0x02) ∧
  encode .busRdStatus = .txn (busDescriptor .rd .status 0) ∧
  encode .busRdRead = .txn (busDescriptor .rd .read 0) ∧
  (∀ b, encode (.busWrWrite b) = .txn (busDescriptor .wr .write b)) ∧
  (∀ (dir : Dir) (r : BusReg) (b : Byte),
    (busDescriptor dir r b).toNat = (if dir = .wr then 2 ^ 10 else 0) + r.offset.toNat * 2 ^ 8 + b.toNat) ∧
  (∀ s t : State, step s = .next t → ∀ e ∈ t.trace, e ∈ s.trace ∨ e = .dly ∨
    (∃ v, e = .rd .status v ∨ e = .rd .read v ∨ e = .wr .write v) ∨
    ∃ info, e = .terr .status .rd info ∨ e = .terr .read .rd info ∨ e = .terr .write .wr info)
end

