-- ==== Sys2Proof/Laws/Memory.lean ====
section
/-! SUPPORT. The virtual register files: read after write, and every write keeps the canonical form. -/

namespace Sys2Proof.Machine

theorem Memory.rises_weaken {hi : Nat} {lo lo' : Option Nat} {m : Memory} (h : Memory.risesAbove hi lo m = true)
    (hlo : ∀ l', lo' = some l' → ∃ l, lo = some l ∧ l' ≤ l) : Memory.risesAbove hi lo' m = true := by
  cases m with
  | nil => rfl
  | cons c rest =>
    obtain ⟨a, v⟩ := c
    cases lo' with
    | none => cases lo <;> simp_all [Memory.risesAbove]
    | some l' =>
      obtain ⟨l, rfl, hl⟩ := hlo l' rfl
      simp only [Memory.risesAbove, Bool.and_eq_true, decide_eq_true_eq] at h ⊢
      exact ⟨⟨⟨by omega, h.1.1.2⟩, h.1.2⟩, h.2⟩

theorem Memory.rises_entry_append {hi k : Nat} {v : Byte} {lo : Option Nat} {m : Memory} (hk : k < hi)
    (hlo : ∀ l, lo = some l → l < k) (h : Memory.risesAbove hi (some k) m = true) :
    Memory.risesAbove hi lo (Memory.entry k v ++ m) = true := by
  unfold Memory.entry
  split
  · exact Memory.rises_weaken h fun l hl => ⟨k, rfl, by have := hlo l hl; omega⟩
  · cases lo with
    | none => simp_all [Memory.risesAbove]
    | some l => simp_all [Memory.risesAbove]

theorem Memory.rises_write {hi k : Nat} {v : Byte} (hk : k < hi) :
    ∀ {m : Memory} {lo : Option Nat}, (∀ l, lo = some l → l < k) → Memory.risesAbove hi lo m = true →
      Memory.risesAbove hi lo (m.write k v) = true
  | [], lo, hlo, _ => by
    simpa [Memory.write] using Memory.rises_entry_append (v := v) (m := []) hk hlo rfl
  | (a, x) :: rest, lo, hlo, h => by
    have h' := h
    simp only [Memory.risesAbove, Bool.and_eq_true, decide_eq_true_eq, bne_iff_ne, ne_eq] at h
    obtain ⟨⟨⟨h1, h2⟩, h3⟩, h4⟩ := h
    simp only [Memory.write]
    split
    · apply Memory.rises_entry_append hk hlo
      simp_all [Memory.risesAbove]
    · split
      · rename_i hka
        subst hka
        exact Memory.rises_entry_append hk hlo h4
      · have := Memory.rises_write (v := v) hk (m := rest) (lo := some a) (by intro l hl; cases hl; omega) h4
        simp only [Memory.risesAbove, Bool.and_eq_true, decide_eq_true_eq, bne_iff_ne, ne_eq]
        exact ⟨⟨⟨h1, h2⟩, h3⟩, this⟩

/-- Every write keeps the canonical form. -/
theorem Memory.wf_write {m : Memory} {k : Nat} {v : Byte} (hk : k < Memory.size) (h : m.wf = true) :
    (m.write k v).wf = true :=
  Memory.rises_write hk (by simp) h

/-- A cell below everything listed reads as unlisted. -/
theorem Memory.read_below {hi k : Nat} : ∀ {m : Memory} {l : Nat}, Memory.risesAbove hi (some l) m = true → k ≤ l →
    m.read k = Memory.unlisted
  | [], _, _, _ => rfl
  | (a, x) :: rest, l, h, hk => by
    simp only [Memory.risesAbove, Bool.and_eq_true, decide_eq_true_eq] at h
    simp only [Memory.read]
    rw [if_neg (by omega)]
    exact Memory.read_below h.2 (by omega)

theorem Memory.read_entry_append {k k' : Nat} {v : Byte} {m : Memory} (hm : m.read k = Memory.unlisted) :
    Memory.read (Memory.entry k v ++ m) k' = if k' = k then v else m.read k' := by
  unfold Memory.entry
  split
  · split <;> simp_all
  · by_cases hk : k' = k
    · simp [Memory.read, hk]
    · simp [Memory.read, hk, Ne.symm hk]

/-- Reading after a write: the cell written holds the value, every other cell what it held. -/
theorem Memory.read_write {hi k k' : Nat} {v : Byte} : ∀ {m : Memory} {lo : Option Nat},
    Memory.risesAbove hi lo m = true → (m.write k v).read k' = if k' = k then v else m.read k'
  | [], lo, _ => by
    simpa [Memory.write] using Memory.read_entry_append (v := v) (k := k) (k' := k') (m := []) rfl
  | (a, x) :: rest, lo, h => by
    have h4 : Memory.risesAbove hi (some a) rest = true := by
      simp only [Memory.risesAbove, Bool.and_eq_true] at h; exact h.2
    simp only [Memory.write]
    split
    · apply Memory.read_entry_append
      simp only [Memory.read]
      rw [if_neg (by omega)]
      exact Memory.read_below h4 (by omega)
    · split
      · rename_i hka
        subst hka
        rw [Memory.read_entry_append (Memory.read_below h4 (Nat.le_refl _))]
        simp only [Memory.read]
        by_cases hk : k' = k
        · simp [hk]
        · rw [if_neg hk, if_neg hk, if_neg (Ne.symm hk)]
      · simp only [Memory.read, Memory.read_write h4]
        split <;> simp_all
        omega

/-- A property of keys holds of every cell after a write to a key that has it. -/
theorem Memory.all_write {p : Nat → Bool} {k : Nat} {v : Byte} (hk : p k = true) : ∀ {m : Memory},
    (m.all fun c => p c.1) = true → ((m.write k v).all fun c => p c.1) = true
  | [], _ => by
    unfold Memory.write Memory.entry
    split <;> simp [hk]
  | (a, x) :: rest, h => by
    simp only [List.all_cons, Bool.and_eq_true] at h
    have ih := Memory.all_write (v := v) hk h.2
    have he : ((Memory.entry k v).all fun c => p c.1) = true := by
      unfold Memory.entry
      split <;> simp [hk]
    simp only [Memory.write]
    split
    · simp [List.all_append, he, h.1, h.2]
    · split
      · simp [List.all_append, he, h.2]
      · simp [h.1, ih]

theorem vregKey_lt (die : Die) (a : VAddr) : vregKey die a < Memory.size := by
  have := a.isLt
  cases die <;> simp [vregKey, Die.index, Memory.size] <;> omega

theorem vregKey_inj {d d' : Die} {a a' : VAddr} (h : vregKey d a = vregKey d' a') : d = d' ∧ a = a' := by
  have h1 := a.isLt
  have h2 := a'.isLt
  have : a.toNat = a'.toNat ∧ d = d' := by
    cases d <;> cases d' <;> simp [vregKey, Die.index] at h ⊢ <;> omega
  exact ⟨this.2, BitVec.eq_of_toNat_eq this.1⟩

theorem vregKey_mod (die : Die) (a : VAddr) : vregKey die a % 128 = a.toNat := by
  have := a.isLt
  cases die <;> simp [vregKey, Die.index] <;> omega

end Sys2Proof.Machine
end

