-- ==== Sys2Proof/Laws/State.lean ====
section
/-! SUPPORT. One lemma per field and update of State, so that no later proof unfolds an update. -/

namespace Sys2Proof.Machine

@[simp] theorem State.emit_params (e : Event) (s : State) : (s.emit e).params = s.params := rfl
@[simp] theorem State.emit_blk (e : Event) (s : State) : (s.emit e).blk = s.blk := rfl
@[simp] theorem State.emit_port (e : Event) (s : State) : (s.emit e).port = s.port := rfl
@[simp] theorem State.emit_responses (e : Event) (s : State) : (s.emit e).responses = s.responses := rfl
@[simp] theorem State.emit_trace (e : Event) (s : State) : (s.emit e).trace = e :: s.trace := rfl
@[simp] theorem State.emit_env (e : Event) (s : State) : (s.emit e).env = s.env := rfl
@[simp] theorem State.emit_answers (e : Event) (s : State) : (s.emit e).answers = s.answers := rfl
@[simp] theorem State.emit_dev (e : Event) (s : State) : (s.emit e).dev = s.dev := rfl
@[simp] theorem State.emit_inputs (e : Event) (s : State) : (s.emit e).inputs = s.inputs := rfl
@[simp] theorem State.emit_fresh (e : Event) (s : State) : (s.emit e).fresh = s.fresh := rfl

@[simp] theorem State.setBlk_params (b : Block) (s : State) : (s.setBlk b).params = s.params := rfl
@[simp] theorem State.setBlk_blk (b : Block) (s : State) : (s.setBlk b).blk = b := rfl
@[simp] theorem State.setBlk_port (b : Block) (s : State) : (s.setBlk b).port = s.port := rfl
@[simp] theorem State.setBlk_responses (b : Block) (s : State) : (s.setBlk b).responses = s.responses := rfl
@[simp] theorem State.setBlk_trace (b : Block) (s : State) : (s.setBlk b).trace = s.trace := rfl
@[simp] theorem State.setBlk_env (b : Block) (s : State) : (s.setBlk b).env = s.env := rfl
@[simp] theorem State.setBlk_answers (b : Block) (s : State) : (s.setBlk b).answers = s.answers := rfl
@[simp] theorem State.setBlk_dev (b : Block) (s : State) : (s.setBlk b).dev = s.dev := rfl
@[simp] theorem State.setBlk_inputs (b : Block) (s : State) : (s.setBlk b).inputs = s.inputs := rfl
@[simp] theorem State.setBlk_fresh (b : Block) (s : State) : (s.setBlk b).fresh = s.fresh := rfl

@[simp] theorem State.setDev_params (d : Device) (s : State) : (s.setDev d).params = s.params := rfl
@[simp] theorem State.setDev_blk (d : Device) (s : State) : (s.setDev d).blk = s.blk := rfl
@[simp] theorem State.setDev_port (d : Device) (s : State) : (s.setDev d).port = s.port := rfl
@[simp] theorem State.setDev_responses (d : Device) (s : State) : (s.setDev d).responses = s.responses := rfl
@[simp] theorem State.setDev_trace (d : Device) (s : State) : (s.setDev d).trace = s.trace := rfl
@[simp] theorem State.setDev_env (d : Device) (s : State) : (s.setDev d).env = s.env := rfl
@[simp] theorem State.setDev_answers (d : Device) (s : State) : (s.setDev d).answers = s.answers := rfl
@[simp] theorem State.setDev_dev (d : Device) (s : State) : (s.setDev d).dev = d := rfl
@[simp] theorem State.setDev_inputs (d : Device) (s : State) : (s.setDev d).inputs = s.inputs := rfl
@[simp] theorem State.setDev_fresh (d : Device) (s : State) : (s.setDev d).fresh = s.fresh := rfl

@[simp] theorem State.toOracle_params (s : State) : (s.toOracle).params = s.params := rfl
@[simp] theorem State.toOracle_blk (s : State) : (s.toOracle).blk = s.blk := rfl
@[simp] theorem State.toOracle_port (s : State) : (s.toOracle).port = s.port := rfl
@[simp] theorem State.toOracle_responses (s : State) : (s.toOracle).responses = s.responses := rfl
@[simp] theorem State.toOracle_trace (s : State) : (s.toOracle).trace = s.trace := rfl
@[simp] theorem State.toOracle_env (s : State) : (s.toOracle).env = .oracle := rfl
@[simp] theorem State.toOracle_answers (s : State) : (s.toOracle).answers = s.answers := rfl
@[simp] theorem State.toOracle_dev (s : State) : (s.toOracle).dev = s.dev := rfl
@[simp] theorem State.toOracle_inputs (s : State) : (s.toOracle).inputs = s.inputs := rfl
@[simp] theorem State.toOracle_fresh (s : State) : (s.toOracle).fresh = s.fresh := rfl

@[simp] theorem State.draw_params (s : State) : (s.draw).params = s.params := rfl
@[simp] theorem State.draw_blk (s : State) : (s.draw).blk = s.blk := rfl
@[simp] theorem State.draw_port (s : State) : (s.draw).port = s.port := rfl
@[simp] theorem State.draw_responses (s : State) : (s.draw).responses = s.responses := rfl
@[simp] theorem State.draw_trace (s : State) : (s.draw).trace = s.trace := rfl
@[simp] theorem State.draw_env (s : State) : (s.draw).env = s.env := rfl
@[simp] theorem State.draw_answers (s : State) : (s.draw).answers = s.answers := rfl
@[simp] theorem State.draw_dev (s : State) : (s.draw).dev = s.dev := rfl
@[simp] theorem State.draw_inputs (s : State) : (s.draw).inputs = s.inputs := rfl
@[simp] theorem State.draw_fresh (s : State) : (s.draw).fresh = s.fresh + 1 := rfl

@[simp] theorem State.goto_params (p : Phase) (s : State) : (s.goto p).params = s.params := rfl
@[simp] theorem State.goto_blk (p : Phase) (s : State) : (s.goto p).blk = { s.blk with phase := p } := rfl
@[simp] theorem State.goto_port (p : Phase) (s : State) : (s.goto p).port = s.port := rfl
@[simp] theorem State.goto_responses (p : Phase) (s : State) : (s.goto p).responses = s.responses := rfl
@[simp] theorem State.goto_trace (p : Phase) (s : State) : (s.goto p).trace = s.trace := rfl
@[simp] theorem State.goto_env (p : Phase) (s : State) : (s.goto p).env = s.env := rfl
@[simp] theorem State.goto_answers (p : Phase) (s : State) : (s.goto p).answers = s.answers := rfl
@[simp] theorem State.goto_dev (p : Phase) (s : State) : (s.goto p).dev = s.dev := rfl
@[simp] theorem State.goto_inputs (p : Phase) (s : State) : (s.goto p).inputs = s.inputs := rfl
@[simp] theorem State.goto_fresh (p : Phase) (s : State) : (s.goto p).fresh = s.fresh := rfl

@[simp] theorem State.enter_params (p : Phase) (s : State) : (s.enter p).params = s.params := rfl
@[simp] theorem State.enter_blk (p : Phase) (s : State) : (s.enter p).blk = { s.blk with phase := p, pcnt := 0 } := rfl
@[simp] theorem State.enter_port (p : Phase) (s : State) : (s.enter p).port = s.port := rfl
@[simp] theorem State.enter_responses (p : Phase) (s : State) : (s.enter p).responses = s.responses := rfl
@[simp] theorem State.enter_trace (p : Phase) (s : State) : (s.enter p).trace = s.trace := rfl
@[simp] theorem State.enter_env (p : Phase) (s : State) : (s.enter p).env = s.env := rfl
@[simp] theorem State.enter_answers (p : Phase) (s : State) : (s.enter p).answers = s.answers := rfl
@[simp] theorem State.enter_dev (p : Phase) (s : State) : (s.enter p).dev = s.dev := rfl
@[simp] theorem State.enter_inputs (p : Phase) (s : State) : (s.enter p).inputs = s.inputs := rfl
@[simp] theorem State.enter_fresh (p : Phase) (s : State) : (s.enter p).fresh = s.fresh := rfl

@[simp] theorem State.endOperation_params (le : LastErr) (d : Option Byte) (f : Option FpResult) (v : Option Lanes) (s : State) : (s.endOperation le d f v).params = s.params := rfl
@[simp] theorem State.endOperation_blk (le : LastErr) (d : Option Byte) (f : Option FpResult) (v : Option Lanes) (s : State) : (s.endOperation le d f v).blk = { s.blk with lasterr := le } := rfl
@[simp] theorem State.endOperation_port (le : LastErr) (d : Option Byte) (f : Option FpResult) (v : Option Lanes) (s : State) : (s.endOperation le d f v).port = s.port := rfl
@[simp] theorem State.endOperation_responses (le : LastErr) (d : Option Byte) (f : Option FpResult) (v : Option Lanes) (s : State) : (s.endOperation le d f v).responses = ⟨le.code, d, f, v, le.phase, le.polls, le.info⟩ :: s.responses := rfl
@[simp] theorem State.endOperation_trace (le : LastErr) (d : Option Byte) (f : Option FpResult) (v : Option Lanes) (s : State) : (s.endOperation le d f v).trace = s.trace := rfl
@[simp] theorem State.endOperation_env (le : LastErr) (d : Option Byte) (f : Option FpResult) (v : Option Lanes) (s : State) : (s.endOperation le d f v).env = s.env := rfl
@[simp] theorem State.endOperation_answers (le : LastErr) (d : Option Byte) (f : Option FpResult) (v : Option Lanes) (s : State) : (s.endOperation le d f v).answers = s.answers := rfl
@[simp] theorem State.endOperation_dev (le : LastErr) (d : Option Byte) (f : Option FpResult) (v : Option Lanes) (s : State) : (s.endOperation le d f v).dev = s.dev := rfl
@[simp] theorem State.endOperation_inputs (le : LastErr) (d : Option Byte) (f : Option FpResult) (v : Option Lanes) (s : State) : (s.endOperation le d f v).inputs = s.inputs := rfl
@[simp] theorem State.endOperation_fresh (le : LastErr) (d : Option Byte) (f : Option FpResult) (v : Option Lanes) (s : State) : (s.endOperation le d f v).fresh = s.fresh := rfl

@[simp] theorem State.abort_params (c : RespCode) (n : Nat) (i : Option TErr) (s : State) : (s.abort c n i).params = s.params := rfl
@[simp] theorem State.abort_blk (c : RespCode) (n : Nat) (i : Option TErr) (s : State) : (s.abort c n i).blk = { s.blk with phase := .idle, pcnt := 0, lasterr := ⟨c, s.blk.phase, n, i⟩ } := rfl
@[simp] theorem State.abort_port (c : RespCode) (n : Nat) (i : Option TErr) (s : State) : (s.abort c n i).port = s.port := rfl
@[simp] theorem State.abort_responses (c : RespCode) (n : Nat) (i : Option TErr) (s : State) : (s.abort c n i).responses = ⟨c, none, none, none, s.blk.phase, n, i⟩ :: s.responses := rfl
@[simp] theorem State.abort_trace (c : RespCode) (n : Nat) (i : Option TErr) (s : State) : (s.abort c n i).trace = s.trace := rfl
@[simp] theorem State.abort_env (c : RespCode) (n : Nat) (i : Option TErr) (s : State) : (s.abort c n i).env = s.env := rfl
@[simp] theorem State.abort_answers (c : RespCode) (n : Nat) (i : Option TErr) (s : State) : (s.abort c n i).answers = s.answers := rfl
@[simp] theorem State.abort_dev (c : RespCode) (n : Nat) (i : Option TErr) (s : State) : (s.abort c n i).dev = s.dev := rfl
@[simp] theorem State.abort_inputs (c : RespCode) (n : Nat) (i : Option TErr) (s : State) : (s.abort c n i).inputs = s.inputs := rfl
@[simp] theorem State.abort_fresh (c : RespCode) (n : Nat) (i : Option TErr) (s : State) : (s.abort c n i).fresh = s.fresh := rfl

@[simp] theorem State.reject_params (c : RespCode) (s : State) : (s.reject c).params = s.params := rfl
@[simp] theorem State.reject_blk (c : RespCode) (s : State) : (s.reject c).blk = { s.blk with lasterr := ⟨c, .idle, 0, none⟩ } := rfl
@[simp] theorem State.reject_port (c : RespCode) (s : State) : (s.reject c).port = s.port := rfl
@[simp] theorem State.reject_responses (c : RespCode) (s : State) : (s.reject c).responses = ⟨c, none, none, none, .idle, 0, none⟩ :: s.responses := rfl
@[simp] theorem State.reject_trace (c : RespCode) (s : State) : (s.reject c).trace = s.trace := rfl
@[simp] theorem State.reject_env (c : RespCode) (s : State) : (s.reject c).env = s.env := rfl
@[simp] theorem State.reject_answers (c : RespCode) (s : State) : (s.reject c).answers = s.answers := rfl
@[simp] theorem State.reject_dev (c : RespCode) (s : State) : (s.reject c).dev = s.dev := rfl
@[simp] theorem State.reject_inputs (c : RespCode) (s : State) : (s.reject c).inputs = s.inputs := rfl
@[simp] theorem State.reject_fresh (c : RespCode) (s : State) : (s.reject c).fresh = s.fresh := rfl

@[simp] theorem State.blockReset_params (s : State) : (s.blockReset).params = s.params := rfl
@[simp] theorem State.blockReset_blk (s : State) : (s.blockReset).blk = Block.reset := rfl
@[simp] theorem State.blockReset_port (s : State) : (s.blockReset).port = s.port := rfl
@[simp] theorem State.blockReset_responses (s : State) : (s.blockReset).responses = s.responses := rfl
@[simp] theorem State.blockReset_trace (s : State) : (s.blockReset).trace = s.trace := rfl
@[simp] theorem State.blockReset_env (s : State) : (s.blockReset).env = s.env := rfl
@[simp] theorem State.blockReset_answers (s : State) : (s.blockReset).answers = s.answers := rfl
@[simp] theorem State.blockReset_dev (s : State) : (s.blockReset).dev = s.dev := rfl
@[simp] theorem State.blockReset_inputs (s : State) : (s.blockReset).inputs = s.inputs := rfl
@[simp] theorem State.blockReset_fresh (s : State) : (s.blockReset).fresh = s.fresh := rfl

@[simp] theorem State.dropAnswer_params (s : State) : (s.dropAnswer).params = s.params := rfl
@[simp] theorem State.dropAnswer_blk (s : State) : (s.dropAnswer).blk = s.blk := rfl
@[simp] theorem State.dropAnswer_port (s : State) : (s.dropAnswer).port = s.port := rfl
@[simp] theorem State.dropAnswer_responses (s : State) : (s.dropAnswer).responses = s.responses := rfl
@[simp] theorem State.dropAnswer_trace (s : State) : (s.dropAnswer).trace = s.trace := rfl
@[simp] theorem State.dropAnswer_env (s : State) : (s.dropAnswer).env = s.env := rfl
@[simp] theorem State.dropAnswer_answers (s : State) : (s.dropAnswer).answers = s.answers.tail := rfl
@[simp] theorem State.dropAnswer_dev (s : State) : (s.dropAnswer).dev = s.dev := rfl
@[simp] theorem State.dropAnswer_inputs (s : State) : (s.dropAnswer).inputs = s.inputs := rfl
@[simp] theorem State.dropAnswer_fresh (s : State) : (s.dropAnswer).fresh = s.fresh := rfl

end Sys2Proof.Machine
end

