-- ==== Sys2Proof/Laws/Bus.lean ====
section
/-! SUPPORT. What the environment's operations can change, said once: a bus transaction, a byte arriving at the device, a
wire command served. None of them touches the block, its port, its responses or the inputs. -/

namespace Sys2Proof.Machine

/-- `s'` is `s` but for the environment's own fields: `env`, `answers`, `dev`, `fresh`. -/
structure OnlyEnv (s s' : State) : Prop where
  params : s'.params = s.params
  blk : s'.blk = s.blk
  port : s'.port = s.port
  responses : s'.responses = s.responses
  trace : s'.trace = s.trace
  inputs : s'.inputs = s.inputs

theorem OnlyEnv.refl (s : State) : OnlyEnv s s := ⟨rfl, rfl, rfl, rfl, rfl, rfl⟩

theorem OnlyEnv.trans {s s' s'' : State} (h : OnlyEnv s s') (h' : OnlyEnv s' s'') : OnlyEnv s s'' :=
  ⟨h'.1.trans h.1, h'.2.trans h.2, h'.3.trans h.3, h'.4.trans h.4, h'.5.trans h.5, h'.6.trans h.6⟩

theorem onlyEnv_setDev (s : State) (d : Device) : OnlyEnv s (s.setDev d) := ⟨rfl, rfl, rfl, rfl, rfl, rfl⟩
theorem onlyEnv_toOracle (s : State) : OnlyEnv s s.toOracle := ⟨rfl, rfl, rfl, rfl, rfl, rfl⟩
theorem onlyEnv_draw (s : State) : OnlyEnv s s.draw := ⟨rfl, rfl, rfl, rfl, rfl, rfl⟩
theorem onlyEnv_dropAnswer (s : State) : OnlyEnv s s.dropAnswer := ⟨rfl, rfl, rfl, rfl, rfl, rfl⟩

/-! ## Wire commands -/

theorem writeVirtual_onlyEnv (a : VAddr) (b : Byte) (s : State) : OnlyEnv s (s.writeVirtual a b) := by
  unfold State.writeVirtual
  split
  · exact onlyEnv_setDev _ _
  · split
    · exact onlyEnv_toOracle _
    · exact onlyEnv_setDev _ _

theorem placeByte_onlyEnv (v : Byte) (s : State) : OnlyEnv s (s.placeByte v) := by
  unfold State.placeByte
  split <;> exact onlyEnv_setDev _ _

theorem serveRead_onlyEnv (a : VAddr) (s : State) : OnlyEnv s (s.serveRead a) :=
  (((placeByte_onlyEnv _ s).trans (onlyEnv_setDev _ _)).trans (onlyEnv_draw _)).trans (onlyEnv_draw _)

theorem serveWrite_onlyEnv (a : VAddr) (b : Byte) (s : State) : OnlyEnv s (s.serveWrite a b) :=
  ((writeVirtual_onlyEnv a b s).trans (onlyEnv_setDev _ _)).trans (onlyEnv_draw _)

/-- A wire read command changes READ, the slot and the reference device's latency count, and nothing else of the device. -/
theorem serveRead_dev (a : VAddr) (s : State) :
    (s.serveRead a).dev = { s.dev with
      outbound := (s.placeByte (s.readVirtual a)).dev.outbound
      rxw := if s.env = .reference then s.params.lrx else s.dev.rxw
      slot := .empty } := by
  unfold State.serveRead State.placeByte
  split <;> simp_all

/-- READ holds a byte after a wire read command. -/
theorem serveRead_outbound (a : VAddr) (s : State) :
    (s.serveRead a).dev.outbound =
      some (if s.env = .reference ∨ s.dev.outbound = none then s.readVirtual a else Config.freeByte (s.fresh + 1)) := by
  unfold State.serveRead State.placeByte
  split <;> simp_all

@[simp] theorem serveRead_env (a : VAddr) (s : State) : (s.serveRead a).env = s.env := by
  unfold State.serveRead State.placeByte
  split <;> simp_all

@[simp] theorem serveRead_answers (a : VAddr) (s : State) : (s.serveRead a).answers = s.answers := by
  unfold State.serveRead State.placeByte
  split <;> simp_all

@[simp] theorem serveRead_fresh (a : VAddr) (s : State) : (s.serveRead a).fresh = s.fresh + 2 := by
  unfold State.serveRead State.placeByte
  split <;> simp_all

/-- What a write of a virtual register does to the device and to who answers the bus. -/
theorem writeVirtual_cases (a : VAddr) (b : Byte) (s : State) :
    (a = devselAddr ∧ s.writeVirtual a b = s.setDev { s.dev with devsel := s.nextDevsel b }) ∨
    (a ≠ devselAddr ∧ s.reaches a = none ∧ s.writeVirtual a b = s.toOracle) ∨
    (a ≠ devselAddr ∧ ∃ die, s.reaches a = some die ∧
      s.writeVirtual a b = s.setDev { s.dev with vreg := s.dev.vreg.write (vregKey die a) b }) := by
  unfold State.writeVirtual
  split
  · exact .inl ⟨‹_›, rfl⟩
  · split
    · exact .inr (.inl ⟨‹_›, ‹_›, rfl⟩)
    · exact .inr (.inr ⟨‹_›, _, ‹_›, rfl⟩)

theorem serveWrite_dev (a : VAddr) (b : Byte) (s : State) :
    (s.serveWrite a b).dev = { (s.writeVirtual a b).dev with slot := .empty, inbound := none } := rfl

theorem serveWrite_env (a : VAddr) (b : Byte) (s : State) : (s.serveWrite a b).env = (s.writeVirtual a b).env := rfl

theorem writeVirtual_wf {a : VAddr} {b : Byte} {s : State} (h : s.dev.wf = true) :
    (s.writeVirtual a b).dev.wf = true := by
  simp only [Device.wf, Bool.and_eq_true] at h ⊢
  obtain ⟨-, h'⟩ | ⟨-, -, h'⟩ | ⟨ha, die, -, h'⟩ := writeVirtual_cases a b s
  · rw [h']; exact h
  · rw [h']; exact h
  · rw [h']
    refine ⟨Memory.wf_write (vregKey_lt die a) h.1, ?_⟩
    have hk : vregKey die a % 128 ≠ devselAddr.toNat := by
      rw [vregKey_mod]; intro e; exact ha (BitVec.eq_of_toNat_eq e)
    exact Memory.all_write (p := fun k => k % 128 != devselAddr.toNat) (by simpa using hk) h.2

theorem serveWrite_wf {a : VAddr} {b : Byte} {s : State} (h : s.dev.wf = true) : (s.serveWrite a b).dev.wf = true :=
  writeVirtual_wf (s := s) (a := a) (b := b) h

/-! ## Bytes arriving -/

theorem receive_onlyEnv (b : Byte) (s : State) : OnlyEnv s (s.receive b) := by
  unfold State.receive
  split
  · exact onlyEnv_setDev _ _
  · exact onlyEnv_toOracle _

theorem refReceive_onlyEnv (b : Byte) (s : State) : OnlyEnv s (s.refReceive b) := by
  unfold State.refReceive
  refine OnlyEnv.trans ?_ (onlyEnv_setDev _ _)
  split
  · exact serveWrite_onlyEnv _ _ _
  all_goals
    split
    · exact onlyEnv_setDev _ _
    · exact serveRead_onlyEnv _ _

/-! ## Transactions -/

theorem oracleAnswer_onlyEnv (dir : Dir) (r : BusReg) (b : Byte) (s : State) : OnlyEnv s (s.oracleAnswer dir r b).2 := by
  unfold State.oracleAnswer
  split <;> exact ⟨rfl, rfl, rfl, rfl, rfl, rfl⟩

@[simp] theorem oracleAnswer_dev (dir : Dir) (r : BusReg) (b : Byte) (s : State) :
    (s.oracleAnswer dir r b).2.dev = s.dev := by
  unfold State.oracleAnswer
  split <;> rfl

theorem answerStatus_onlyEnv (s : State) : OnlyEnv s s.answerStatus.2 := by
  unfold State.answerStatus
  split
  · exact oracleAnswer_onlyEnv _ _ _ _
  · split <;> exact onlyEnv_dropAnswer _
  · exact onlyEnv_setDev _ _

theorem answerRead_onlyEnv (s : State) : OnlyEnv s s.answerRead.2 := by
  unfold State.answerRead
  split
  · exact oracleAnswer_onlyEnv _ _ _ _
  · split
    · exact (onlyEnv_setDev _ _).trans (onlyEnv_dropAnswer _)
    · exact ((onlyEnv_setDev _ _).trans (onlyEnv_draw _)).trans (onlyEnv_dropAnswer _)
  · split
    · exact onlyEnv_setDev _ _
    · exact OnlyEnv.refl _

theorem answerWrite_onlyEnv (b : Byte) (s : State) : OnlyEnv s (s.answerWrite b).2 := by
  unfold State.answerWrite
  split
  · exact oracleAnswer_onlyEnv _ _ _ _
  · split
    · refine OnlyEnv.trans ?_ (onlyEnv_dropAnswer _)
      split
      · exact receive_onlyEnv _ _
      · exact OnlyEnv.refl _
    · exact (receive_onlyEnv _ _).trans (onlyEnv_dropAnswer _)
  · split
    · exact refReceive_onlyEnv _ _
    · exact (onlyEnv_toOracle _).trans (oracleAnswer_onlyEnv _ _ _ _)

/-- A transaction that answered `ans` and recorded `e`: it leaves block, port, responses and inputs alone, and the trace
grows by `e`. -/
structure TxnEffect (e : Event) (s s' : State) : Prop where
  params : s'.params = s.params
  blk : s'.blk = s.blk
  port : s'.port = s.port
  responses : s'.responses = s.responses
  trace : s'.trace = e :: s.trace
  inputs : s'.inputs = s.inputs

theorem TxnEffect.of {e : Event} {s s' : State} (h : OnlyEnv s s') : TxnEffect e s (s'.emit e) :=
  ⟨h.params, h.blk, h.port, h.responses, by simp [h.trace], h.inputs⟩

theorem busReadStatus_effect (s : State) : TxnEffect (readEvent .status s.busReadStatus.1) s s.busReadStatus.2 :=
  TxnEffect.of (answerStatus_onlyEnv s)

theorem busReadRead_effect (s : State) : TxnEffect (readEvent .read s.busReadRead.1) s s.busReadRead.2 :=
  TxnEffect.of (answerRead_onlyEnv s)

theorem busWrite_effect (b : Byte) (s : State) : TxnEffect (writeEvent b (s.busWrite b).1) s (s.busWrite b).2 :=
  TxnEffect.of (answerWrite_onlyEnv b s)

/-! ## What is stored -/

/-- From `s` to `s'` the device keeps its canonical form, no virtual register changes but the one that the write in flight
addresses on the routed die, and DEVSEL changes with a write of 0x4F in flight alone. -/
structure StoreFrame (s s' : State) : Prop where
  wf : s.dev.wf = true → s'.dev.wf = true
  vreg : s.dev.vreg.wf = true → ∀ key, s'.dev.vreg.read key = s.dev.vreg.read key ∨
    ∃ a die, s.dev.slot = .wr a ∧ a ≠ devselAddr ∧ routedDie s.params.devCode s.dev.devsel = some die ∧
      key = vregKey die a
  devsel : s'.dev.devsel = s.dev.devsel ∨ s.dev.slot = .wr devselAddr

/-- A transition that keeps the register files and DEVSEL stores nothing. -/
theorem StoreFrame.of_same {s s' : State} (hv : s'.dev.vreg = s.dev.vreg) (hd : s'.dev.devsel = s.dev.devsel) :
    StoreFrame s s' :=
  ⟨by simp only [Device.wf, hv]; exact id, fun _ _ => .inl (by rw [hv]), .inl hd⟩

theorem reaches_routed {a : VAddr} {s : State} {die : Die} (h : s.reaches a = some die) :
    routedDie s.params.devCode s.dev.devsel = some die := by
  unfold State.reaches at h
  split at h
  · cases h
  · split at h
    · cases h; assumption
    · cases h

/-- A wire write command stores where it is the one in flight. -/
theorem serveWrite_store {a : VAddr} {b : Byte} {s : State} (hs : s.dev.slot = .wr a) :
    StoreFrame s (s.serveWrite a b) := by
  refine ⟨serveWrite_wf, fun hw key => ?_, ?_⟩
  · rw [serveWrite_dev]
    obtain ⟨-, h⟩ | ⟨-, -, h⟩ | ⟨ha, die, hr, h⟩ := writeVirtual_cases a b s <;> rw [h]
    · exact .inl rfl
    · exact .inl rfl
    · by_cases hk : key = vregKey die a
      · exact .inr ⟨a, die, hs, ha, reaches_routed hr, hk⟩
      · exact .inl ((Memory.read_write hw).trans (if_neg hk))
  · rw [serveWrite_dev]
    obtain ⟨rfl, -⟩ | ⟨-, -, h⟩ | ⟨-, _, -, h⟩ := writeVirtual_cases a b s
    · exact .inr hs
    · rw [h]; exact .inl rfl
    · rw [h]; exact .inl rfl

theorem serveRead_store (a : VAddr) (s : State) : StoreFrame s (s.serveRead a) := by
  apply StoreFrame.of_same <;> rw [serveRead_dev]

theorem busReadStatus_store (s : State) : StoreFrame s s.busReadStatus.2 := by
  simp only [State.busReadStatus, State.answerStatus]
  split
  · exact StoreFrame.of_same (by simp) (by simp)
  · split <;> exact StoreFrame.of_same rfl rfl
  · exact StoreFrame.of_same rfl rfl

theorem busReadRead_store (s : State) : StoreFrame s s.busReadRead.2 := by
  simp only [State.busReadRead, State.answerRead]
  split
  · exact StoreFrame.of_same (by simp) (by simp)
  · split <;> exact StoreFrame.of_same rfl rfl
  · split <;> exact StoreFrame.of_same rfl rfl

theorem receive_vreg (b : Byte) (s : State) :
    (s.receive b).dev.vreg = s.dev.vreg ∧ (s.receive b).dev.devsel = s.dev.devsel := by
  unfold State.receive
  split <;> exact ⟨rfl, rfl⟩

theorem refReceive_store (b : Byte) (s : State) : StoreFrame s (s.refReceive b) := by
  have keep : ∀ s' : State, StoreFrame s s' → StoreFrame s (s'.setDev { s'.dev with txb := s.params.ltx }) :=
    fun _ h => ⟨h.wf, h.vreg, h.devsel⟩
  unfold State.refReceive
  apply keep
  split
  · exact serveWrite_store ‹_›
  all_goals
    split
    · exact StoreFrame.of_same rfl rfl
    · exact serveRead_store _ _

theorem busWrite_store (b : Byte) (s : State) : StoreFrame s (s.busWrite b).2 := by
  have recv := receive_vreg b s
  simp only [State.busWrite, State.answerWrite]
  split
  · exact StoreFrame.of_same (by simp) (by simp)
  · split
    · simp only
      split
      · exact StoreFrame.of_same recv.1 recv.2
      · exact StoreFrame.of_same rfl rfl
    · exact StoreFrame.of_same recv.1 recv.2
  · split
    · have h := refReceive_store b s
      exact ⟨h.wf, h.vreg, h.devsel⟩
    · exact StoreFrame.of_same (by simp) (by simp)

end Sys2Proof.Machine
end

