-- ==== Sys2Proof/Laws/PerInstr.lean ====
section
/-! SUPPORT. Statements made once per constructor of `Instr`, which the host's case split puts together. -/

namespace Sys2Proof.Laws.TableRow

/-- The bits an instruction encodes to lie in its row of the opcode table (R143): they fit the row's width, and under its
mask they are its pattern. -/
def Statement (i : Instr) : Prop :=
  (encode i).tableBits < 2 ^ i.tableRow.width ∧ (encode i).tableBits &&& i.tableRow.mask = i.tableRow.pattern

/-- A word under a mask, in numbers. -/
theorem masked {n : Nat} {w mask pattern : BitVec n} (h : w &&& mask = pattern) :
    w.toNat &&& mask.toNat = pattern.toNat := by rw [← BitVec.toNat_and, h]

theorem reqWord_vwrite (addr : VAddr) (data : Byte) :
    reqWord 1 0 addr data &&& 0xFFFF8000#32 = 0x20000000#32 := by
  unfold reqWord
  ext i hi
  simp only [BitVec.getElem_and, BitVec.getElem_append]
  interval_cases i <;> simp

theorem vread (addr : VAddr) : Statement (.vread addr) := by
  revert addr; unfold Statement; decide
theorem vwrite (addr : VAddr) (data : Byte) : Statement (.vwrite addr data) :=
  ⟨BitVec.isLt _, masked (reqWord_vwrite addr data)⟩
theorem select (dev : BitVec 2) : Statement (.select dev) := by
  revert dev; unfold Statement; decide
theorem fdec (bytes : FpBytes) : Statement (.fdec bytes) :=
  ⟨BitVec.isLt _, masked (w := reqWord 3 0 0 0) (mask := 0xFFFFFFFF#32) (pattern := 0x60000000#32) (by decide)⟩
theorem perm (lanes : Lanes) : Statement (.perm lanes) :=
  ⟨BitVec.isLt _, masked (w := reqWord 4 0 0 0) (mask := 0xFFFFFFFF#32) (pattern := 0x80000000#32) (by decide)⟩
theorem rdcmd (addr : VAddr) : Statement (.rdcmd addr) := by
  revert addr; unfold Statement; decide
theorem wrcmd (addr : VAddr) (payload : Byte) : Statement (.wrcmd addr payload) := by
  have h : ∀ a : VAddr, (cmdByte true a).toNat = 128 + a.toNat ∧ (128 + a.toNat) &&& 0x80 = 0x80 := by decide
  have ha := addr.isLt
  have hp := payload.isLt
  have low : ∀ x : Nat, x &&& 0x80 = x % 2 ^ 8 &&& 0x80 := fun x => by
    rw [← Nat.and_two_pow_sub_one_eq_mod, Nat.and_assoc]; rfl
  simp only [Statement, encode, Code.tableBits, List.foldr_cons, List.foldr_nil, Instr.tableRow, h]
  refine ⟨by omega, ?_⟩
  rw [low, show (128 + addr.toNat + 2 ^ 8 * (payload.toNat + 2 ^ 8 * 0)) % 2 ^ 8 = 128 + addr.toNat by omega]
  exact (h addr).2
theorem busRdStatus : Statement .busRdStatus := by constructor <;> decide
theorem busRdRead : Statement .busRdRead := by constructor <;> decide
theorem busWrWrite (data : Byte) : Statement (.busWrWrite data) := by
  revert data; unfold Statement; decide

end Sys2Proof.Laws.TableRow
end

