-- ==== Sys2Proof/Laws/Step.lean ====
section
/-! SUPPORT. What a step can do, said once: the transitions of a busy block (R167) and the moves of every agent. Later
proofs split these cases and do not unfold `step`. -/

namespace Sys2Proof.Machine

/-- The four polling loops (R152, R157, R159, R161, R163): phase, ready condition, success phase, timeout code. -/
inductive PollLoop : Phase → (Byte → Bool) → Phase → RespCode → Prop where
  | readTx : PollLoop .rdPollTx txReady .rdCmd .timeoutRdTx
  | readRx : PollLoop .rdPollRx rxReady .rdFetch .timeoutRdRx
  | writeAddr : PollLoop .wrPollTx1 txReady .wrCmd .timeoutWrAddr
  | writeData : PollLoop .wrPollTx2 txReady .wrData .timeoutWrData

/-- The state a completed operation leaves (R166). -/
def State.completed (rdata : Option Byte) (sel : BitVec 2) (s : State) : State :=
  ((s.setBlk { s.blk with sel := sel }).endOperation okRecord rdata none none).enter .idle

@[simp] theorem completed_blk (d : Option Byte) (sel : BitVec 2) (s : State) : (s.completed d sel).blk =
    { s.blk with phase := .idle, pcnt := 0, sel := sel, lasterr := okRecord } := rfl
@[simp] theorem completed_responses (d : Option Byte) (sel : BitVec 2) (s : State) : (s.completed d sel).responses =
    okResponse d :: s.responses := rfl
@[simp] theorem completed_params (d : Option Byte) (sel : BitVec 2) (s : State) :
    (s.completed d sel).params = s.params := rfl
@[simp] theorem completed_port (d : Option Byte) (sel : BitVec 2) (s : State) : (s.completed d sel).port = s.port := rfl
@[simp] theorem completed_trace (d : Option Byte) (sel : BitVec 2) (s : State) :
    (s.completed d sel).trace = s.trace := rfl
@[simp] theorem completed_inputs (d : Option Byte) (sel : BitVec 2) (s : State) :
    (s.completed d sel).inputs = s.inputs := rfl
@[simp] theorem completed_dev (d : Option Byte) (sel : BitVec 2) (s : State) : (s.completed d sel).dev = s.dev := rfl
@[simp] theorem completed_env (d : Option Byte) (sel : BitVec 2) (s : State) : (s.completed d sel).env = s.env := rfl
@[simp] theorem completed_answers (d : Option Byte) (sel : BitVec 2) (s : State) :
    (s.completed d sel).answers = s.answers := rfl
@[simp] theorem completed_fresh (d : Option Byte) (sel : BitVec 2) (s : State) :
    (s.completed d sel).fresh = s.fresh := rfl

theorem complete_of_ok {d : Option Byte} {sel : BitVec 2} {s : State} (h : s.blk.completionSel = .ok sel) :
    s.complete d = .next (s.completed d sel) := by
  simp [State.complete, h, State.completed]

theorem complete_next {d : Option Byte} {s t : State} (h : s.complete d = .next t) :
    ∃ sel, s.blk.completionSel = .ok sel ∧ t = s.completed d sel := by
  unfold State.complete at h
  split at h
  · cases h
  · cases h; exact ⟨_, ‹_›, rfl⟩

/-- The transition table R167: from the state `s1` with a phase's transaction made and recorded as `e`, to the state after
the step. -/
inductive BusyResult (s1 : State) : Event → State → Prop where
  | failed (r : BusReg) (d : Dir) (info : TErr) (h : (Event.terr r d info).allowed = true) (hp : s1.blk.phase ≠ .idle) :
      BusyResult s1 (.terr r d info)
        (s1.abort .transportError (if s1.blk.phase.isPolling then s1.blk.pcnt + 1 else 0) (some info))
  | stale (v : Byte) (hp : s1.blk.phase = .rdStaleStat) (h : rxReady v = true) :
      BusyResult s1 (.rd .status v) (s1.goto .rdStaleDiscard)
  | clean (v : Byte) (hp : s1.blk.phase = .rdStaleStat) (h : rxReady v = false) :
      BusyResult s1 (.rd .status v) (s1.enter .rdPollTx)
  | ready (v : Byte) (f : Byte → Bool) (next : Phase) (c : RespCode) (hp : PollLoop s1.blk.phase f next c)
      (h : f v = true) : BusyResult s1 (.rd .status v) (s1.enter next)
  | timeout (v : Byte) (f : Byte → Bool) (next : Phase) (c : RespCode) (hp : PollLoop s1.blk.phase f next c)
      (h : f v = false) (hn : s1.params.pollLimit = .reads (s1.blk.pcnt + 1)) :
      BusyResult s1 (.rd .status v) (s1.abort c (s1.blk.pcnt + 1) none)
  | retry (v : Byte) (f : Byte → Bool) (next : Phase) (c : RespCode) (hp : PollLoop s1.blk.phase f next c)
      (h : f v = false) (hn : s1.params.pollLimit ≠ .reads (s1.blk.pcnt + 1)) :
      BusyResult s1 (.rd .status v) ((s1.setBlk { s1.blk with pcnt := s1.blk.pcnt + 1 }).emit .dly)
  | discarded (v : Byte) (hp : s1.blk.phase = .rdStaleDiscard) : BusyResult s1 (.rd .read v) (s1.enter .rdPollTx)
  | readSent (b : Byte) (hp : s1.blk.phase = .rdCmd) : BusyResult s1 (.wr .write b) (s1.enter .rdPollRx)
  | writeSent (b : Byte) (hp : s1.blk.phase = .wrCmd) : BusyResult s1 (.wr .write b) (s1.enter .wrPollTx2)
  | fetched (v : Byte) (sel : BitVec 2) (hp : s1.blk.phase = .rdFetch) (h : s1.blk.completionSel = .ok sel) :
      BusyResult s1 (.rd .read v) (s1.completed (some v) sel)
  | written (b : Byte) (sel : BitVec 2) (hp : s1.blk.phase = .wrData) (h : s1.blk.completionSel = .ok sel) :
      BusyResult s1 (.wr .write b) (s1.completed none sel)

/-- The rules of the phases touch the environment's fields and the parameters not at all. -/
theorem busyResult_keeps {s1 t : State} {e : Event} (h : BusyResult s1 e t) : t.dev = s1.dev ∧ t.params = s1.params := by
  cases h <;> exact ⟨rfl, rfl⟩

theorem pollStep_result {f : Byte → Bool} {next : Phase} {c : RespCode} {s1 : State}
    (hp : PollLoop s1.blk.phase f next c) (ans : BusAnswer) :
    BusyResult s1 (readEvent .status ans) (s1.pollStep f next c ans) := by
  have hpoll : s1.blk.phase.isPolling = true ∧ s1.blk.phase ≠ .idle := by
    generalize s1.blk.phase = p at hp
    cases hp <;> simp [Phase.isPolling]
  cases ans with
  | err info reached =>
    have := BusyResult.failed (s1 := s1) .status .rd info rfl hpoll.2
    simpa [State.pollStep, readEvent, hpoll.1] using this
  | ok v =>
    simp only [State.pollStep, readEvent]
    by_cases hv : f v = true
    · rw [if_pos hv]; exact .ready v f next c hp hv
    · have hv' : f v = false := by simpa using hv
      rw [if_neg hv]
      by_cases hn : s1.params.pollLimit = .reads (s1.blk.pcnt + 1)
      · rw [if_pos hn]; exact .timeout v f next c hp hv' hn
      · rw [if_neg hn]; exact .retry v f next c hp hv' hn

/-- A status read in a phase that issues one. -/
theorem afterStatus_result {s1 : State} (ans : BusAnswer)
    (hp : s1.blk.phase = .rdStaleStat ∨ s1.blk.phase.isPolling = true) :
    BusyResult s1 (readEvent .status ans) (s1.afterStatus ans) := by
  rcases h : s1.blk.phase <;> simp [h, Phase.isPolling] at hp
  · simp only [State.afterStatus, h, State.phaseStaleStat]
    cases ans with
    | err info reached =>
      have := BusyResult.failed (s1 := s1) .status .rd info rfl (by simp [h])
      simpa [h, Phase.isPolling, readEvent] using this
    | ok v =>
      simp only [readEvent]
      by_cases hv : rxReady v = true
      · rw [if_pos hv]; exact .stale v h hv
      · rw [if_neg hv]; exact .clean v h (by simpa using hv)
  all_goals
    simp only [State.afterStatus, h]
    exact pollStep_result (by rw [h]; constructor) ans

/-- A read of READ in a phase that issues one. -/
theorem afterRead_result {s1 t : State} (ans : BusAnswer) (hp : s1.blk.phase = .rdStaleDiscard ∨ s1.blk.phase = .rdFetch)
    (ht : s1.afterRead ans = .next t) : BusyResult s1 (readEvent .read ans) t := by
  have hidle : s1.blk.phase ≠ .idle := by rcases hp with h | h <;> simp [h]
  have hpoll : s1.blk.phase.isPolling = false := by rcases hp with h | h <;> simp [h, Phase.isPolling]
  cases ans with
  | err info reached =>
    have := BusyResult.failed (s1 := s1) .read .rd info rfl hidle
    rw [hpoll] at this
    rcases hp with h | h <;> simp only [State.afterRead, h, State.phaseAdvance] at ht <;> cases ht <;> exact this
  | ok v =>
    rcases hp with h | h <;> simp only [State.afterRead, h, State.phaseAdvance] at ht
    · cases ht; exact .discarded v h
    · obtain ⟨sel, hs, rfl⟩ := complete_next ht
      exact .fetched v sel h hs

/-- A write of WRITE in a phase that issues one. -/
theorem afterWrite_result {s1 t : State} (b : Byte) (ans : BusAnswer)
    (hp : s1.blk.phase = .rdCmd ∨ s1.blk.phase = .wrCmd ∨ s1.blk.phase = .wrData)
    (ht : s1.afterWrite ans = .next t) : BusyResult s1 (writeEvent b ans) t := by
  have hidle : s1.blk.phase ≠ .idle := by rcases hp with h | h | h <;> simp [h]
  have hpoll : s1.blk.phase.isPolling = false := by rcases hp with h | h | h <;> simp [h, Phase.isPolling]
  cases ans with
  | err info reached =>
    have := BusyResult.failed (s1 := s1) .write .wr info rfl hidle
    rw [hpoll] at this
    rcases hp with h | h | h <;> simp only [State.afterWrite, h, State.phaseAdvance] at ht <;> cases ht <;> exact this
  | ok v =>
    rcases hp with h | h | h <;> simp only [State.afterWrite, h, State.phaseAdvance] at ht
    · cases ht; exact .readSent b h
    · cases ht; exact .writeSent b h
    · obtain ⟨sel, hs, rfl⟩ := complete_next ht
      exact .written b sel h hs

/-- A busy block's step: one transaction, then one row of the transition table. -/
def BusyStep (s0 t : State) : Prop :=
  ∃ e s1, TxnEffect e s0 s1 ∧ StoreFrame s0 s1 ∧ BusyResult s1 e t

theorem blockMove_busy {s0 t : State} (hp : s0.blk.phase ≠ .idle)
    (h : runMove (blockMove s0) = .next t) : BusyStep s0 t := by
  have hst : (s0.blk.phase = .rdStaleStat ∨ s0.blk.phase.isPolling = true) → exec .busRdStatus s0 = .next t →
      BusyStep s0 t := by
    intro hp' h'
    simp only [exec, execBusRdStatus, Host.Outcome.next.injEq] at h'
    subst h'
    refine ⟨_, _, busReadStatus_effect s0, busReadStatus_store s0, afterStatus_result _ ?_⟩
    rw [(busReadStatus_effect s0).blk]; exact hp'
  have hrd : (s0.blk.phase = .rdStaleDiscard ∨ s0.blk.phase = .rdFetch) → exec .busRdRead s0 = .next t →
      BusyStep s0 t := by
    intro hp' h'
    refine ⟨_, _, busReadRead_effect s0, busReadRead_store s0, afterRead_result _ ?_ h'⟩
    rw [(busReadRead_effect s0).blk]; exact hp'
  have hwr : ∀ field (b : Option Byte), (s0.blk.phase = .rdCmd ∨ s0.blk.phase = .wrCmd ∨ s0.blk.phase = .wrData) →
      runMove (writeMove field b s0) = .next t → BusyStep s0 t := by
    intro field b hp' h'
    cases b with
    | none => cases h'
    | some b =>
      refine ⟨_, _, busWrite_effect b s0, busWrite_store b s0, afterWrite_result b _ ?_ h'⟩
      rw [(busWrite_effect b s0).blk]; exact hp'
  unfold blockMove at h
  rcases hph : s0.blk.phase <;> simp only [hph] at h hp hst hrd hwr
  · exact absurd rfl hp
  all_goals first
    | exact hst (by simp [Phase.isPolling]) h
    | exact hrd (by simp) h
    | exact hwr _ _ (by simp) h

/-! ## Acceptance -/

theorem accept_idle {s : State} (h : s.blk.phase = .idle) (f : State → State) : s.accept f = .next (f s) := by
  simp [State.accept, Block.busy, h]

theorem accept_busy {s : State} (h : s.blk.phase ≠ .idle) (f : State → State) : s.accept f = .next s := by
  simp [State.accept, Block.busy, h]

/-- A request word decodes to one of the five operations. -/
theorem decode_req_ops {r : Request} {i : Instr} (h : decode (.req r) = .ok i) :
    (∃ a, i = .vread a) ∨ (∃ a d, i = .vwrite a d) ∨ (∃ d, i = .select d) ∨ (∃ b, i = .fdec b) ∨ ∃ v, i = .perm v := by
  simp only [decode, decodeReq] at h
  repeat' split at h
  all_goals cases h
  all_goals simp

/-- What accepting an operation does to the state `s1` with its request taken from the port (R151). -/
inductive AcceptResult (s1 : State) : Instr → State → Prop where
  | vread (a : VAddr) :
      AcceptResult s1 (.vread a) (s1.setBlk { s1.blk with op := some .vread, addr := some a, phase := .rdStaleStat })
  | vwrite (a : VAddr) (d : Byte) : AcceptResult s1 (.vwrite a d) (s1.setBlk
      { s1.blk with op := some .vwrite, addr := some a, data := some d, phase := .wrPollTx1, pcnt := 0 })
  | select (dev : BitVec 2) (die : Die) (h : dieOfId dev = some die) : AcceptResult s1 (.select dev) (s1.setBlk
      { s1.blk with
        op := some .select
        dev := some dev
        addr := some devselAddr
        data := some (devselPayload s1.params.devCode die)
        phase := .wrPollTx1
        pcnt := 0 })
  | noDie (dev : BitVec 2) (h : dieOfId dev = none) : AcceptResult s1 (.select dev) (s1.reject .invalidDevice)
  | fdec (b : FpBytes) : AcceptResult s1 (.fdec b)
      (s1.endOperation okRecord none (some (decodeFloat s1.params.fpEdge (floatWord b))) none)
  | perm (v : Lanes) : AcceptResult s1 (.perm v) (s1.endOperation okRecord none none (some (reorder v)))

theorem accept_result {s1 t : State} {r : Request} {i : Instr} (hp : s1.blk.phase = .idle)
    (hd : decode (.req r) = .ok i) (he : exec i s1 = .next t) : AcceptResult s1 i t := by
  obtain ⟨a, rfl⟩ | ⟨a, d, rfl⟩ | ⟨dev, rfl⟩ | ⟨b, rfl⟩ | ⟨v, rfl⟩ := decode_req_ops hd
  · simp only [exec, execVread, accept_idle hp] at he; cases he; exact .vread a
  · simp only [exec, execVwrite, accept_idle hp] at he; cases he; exact .vwrite a d
  · simp only [exec, execSelect, accept_idle hp] at he
    rcases h : dieOfId dev with _ | die <;> simp only [h] at he <;> cases he
    · exact .noDie dev h
    · exact .select dev die h
  · simp only [exec, execFdec, accept_idle hp] at he; cases he; exact .fdec b
  · simp only [exec, execPerm, accept_idle hp] at he; cases he; exact .perm v

/-! ## Every step -/

/-- Everything a step can do. -/
inductive StepResult (s : State) : State → Prop where
  | waits (s0 : State) (h : s.blockTurn s0) (hp : s.blk.phase = .idle) (hr : s.port = []) : StepResult s s0
  | rejects (s0 : State) (r : Request) (rest : List Request) (e : DecodeError) (h : s.blockTurn s0)
      (hp : s.blk.phase = .idle) (hr : s.port = r :: rest) (hd : decode (.req r) = .error e) :
      StepResult s (({ s0 with port := rest } : State).reject .illegalRequest)
  | accepts (s0 t : State) (r : Request) (rest : List Request) (i : Instr) (h : s.blockTurn s0)
      (hp : s.blk.phase = .idle) (hr : s.port = r :: rest) (hd : decode (.req r) = .ok i)
      (he : AcceptResult { s0 with port := rest } i t) : StepResult s t
  | busy (s0 t : State) (h : s.blockTurn s0) (hp : s.blk.phase ≠ .idle) (hb : BusyStep s0 t) : StepResult s t
  | device (s0 : State) (d : Device) (env : EnvKind) (fresh : Nat) (h : s.deviceTurn s0)
      (hd : StoreFrame s0 { s0 with dev := d, env := env, fresh := fresh }) :
      StepResult s { s0 with dev := d, env := env, fresh := fresh }
  | changes (d : Device) (more : List Input) (h : s.inputs = .deviceChanges d :: more) :
      StepResult s { s with inputs := more, dev := d }
  | offers (r : Request) (more : List Input) (h : s.inputs = .offer r :: more) :
      StepResult s { s with inputs := more, port := s.port ++ [r] }
  | resets (more : List Input) (h : s.inputs = .reset :: more) :
      StepResult s (({ s with inputs := more } : State).blockReset)

theorem blockMove_result {s s0 t : State} (hs : s.blockTurn s0) (h : runMove (blockMove s0) = .next t) :
    StepResult s t := by
  have hb : s0.blk = s.blk ∧ s0.port = s.port := by
    obtain ⟨-, rfl⟩ | ⟨_, -, rfl⟩ := hs <;> exact ⟨rfl, rfl⟩
  by_cases hp : s.blk.phase = .idle
  · have hp0 : s0.blk.phase = .idle := hb.1 ▸ hp
    unfold blockMove at h
    rw [hp0] at h
    simp only [acceptMove] at h
    rcases hr : s0.port with _ | ⟨r, rest⟩
    · rw [hr] at h; cases h; exact .waits s0 hs hp (hb.2 ▸ hr)
    · rw [hr] at h
      rcases hd : decode (.req r) with e | i
      · simp only [hd] at h; cases h; exact .rejects s0 r rest e hs hp (hb.2 ▸ hr) hd
      · simp only [hd] at h; exact .accepts s0 t r rest i hs hp (hb.2 ▸ hr) hd (accept_result hp0 hd h)
  · exact .busy s0 t hs hp (blockMove_busy (by rw [hb.1]; exact hp) h)

theorem onlyEnv_eq {s s' : State} (h : OnlyEnv s s') (ha : s'.answers = s.answers) :
    s' = { s with dev := s'.dev, env := s'.env, fresh := s'.fresh } := by
  obtain ⟨h1, h2, h3, h4, h5, h6⟩ := h
  cases s'; cases s; simp_all

theorem serveWrite_answers (a : VAddr) (b : Byte) (s : State) : (s.serveWrite a b).answers = s.answers := by
  unfold State.serveWrite
  obtain ⟨-, h⟩ | ⟨-, -, h⟩ | ⟨-, _, -, h⟩ := writeVirtual_cases a b s <;> rw [h] <;> rfl

theorem deviceMove_result {s s0 t : State} (hs : s.deviceTurn s0) (h : runMove (deviceMove s0) = .next t) :
    StepResult s t := by
  unfold deviceMove at h
  rcases hsl : s0.dev.slot with _ | a | a <;> rcases hin : s0.dev.inbound with _ | b <;> simp only [hsl, hin] at h
  · cases h; exact .device s0 s0.dev s0.env s0.fresh hs (.of_same rfl rfl)
  · cases h; exact .device s0 { s0.dev with slot := slotOfCommand b, inbound := none } s0.env s0.fresh hs
      (.of_same rfl rfl)
  all_goals try
    cases h
    rw [onlyEnv_eq (serveRead_onlyEnv _ _) (serveRead_answers _ _)]
    exact .device s0 _ _ _ hs ⟨(serveRead_store _ s0).wf, (serveRead_store _ s0).vreg, (serveRead_store _ s0).devsel⟩
  · cases h; exact .device s0 s0.dev s0.env s0.fresh hs (.of_same rfl rfl)
  · cases h
    rw [onlyEnv_eq (serveWrite_onlyEnv _ _ _) (serveWrite_answers _ _ _)]
    exact .device s0 _ _ _ hs ⟨(serveWrite_store hsl).wf, (serveWrite_store hsl).vreg, (serveWrite_store hsl).devsel⟩

/-- A step that answers a next state is one of these. -/
theorem step_result {s t : State} (h : step s = .next t) : StepResult s t := by
  unfold step nextMove at h
  rcases hi : s.inputs with _ | ⟨i, more⟩
  · simp only [hi] at h
    exact blockMove_result (.inl ⟨hi, rfl⟩) h
  · simp only [hi] at h
    cases i with
    | blockMoves => exact blockMove_result (.inr ⟨more, hi, rfl⟩) h
    | deviceMoves => exact deviceMove_result ⟨more, hi, rfl⟩ h
    | deviceChanges d => cases h; exact .changes d more hi
    | offer r => cases h; exact .offers r more hi
    | reset => cases h; exact .resets more hi

/-! ## Turns -/

/-- A step in which the block moves is the block's move. -/
theorem step_blockTurn {s s0 : State} (h : s.blockTurn s0) : step s = runMove (blockMove s0) := by
  obtain ⟨h, rfl⟩ | ⟨more, h, rfl⟩ := h <;> simp [step, nextMove, h]

theorem step_deviceTurn {s s0 : State} (h : s.deviceTurn s0) : step s = runMove (deviceMove s0) := by
  obtain ⟨more, h, rfl⟩ := h
  simp [step, nextMove, h]

/-- What the block's turn keeps: everything but the inputs. -/
theorem blockTurn_keeps {s s0 : State} (h : s.blockTurn s0) :
    s0.blk = s.blk ∧ s0.port = s.port ∧ s0.params = s.params ∧ s0.responses = s.responses ∧ s0.trace = s.trace ∧
      s0.env = s.env ∧ s0.answers = s.answers ∧ s0.dev = s.dev ∧ s0.fresh = s.fresh := by
  obtain ⟨-, rfl⟩ | ⟨more, -, rfl⟩ := h <;> simp

end Sys2Proof.Machine
end

