-- ==== Sys2Proof/Tests/Slice0.lean ====
section
/-! SUPPORT. Tests on small states, and a witness for the hypotheses of every statement. Expected results are those of
spec/95_test_vectors.md (named V1, V20, ...) or are worked out by hand from the rule cited. -/

namespace Sys2Proof.Tests

open Sys2Proof.Machine

/-! ## Small states -/

/-- The vectors' parameters: `POLL_LIMIT = 3`, the default codes, `IEEE`, latencies `LTX = 1` and `LRX = 2`. -/
def params3 : Params := ⟨.reads 3, 0, 0x49, ⟨0, 1, 2⟩, .ieee, 1, 2⟩

/-- The block after reset under those parameters. -/
def idle : State := { State.reset with params := params3 }

/-- `idle` with a request word offered. -/
def offered (w : Word) : State := { idle with port := [plainRequest w] }

/-- A busy block: `phase` of a VREAD of 0x06. -/
def reading (phase : Phase) (pcnt : Nat) : State :=
  { idle with blk := { Block.reset with phase := phase, op := some .vread, addr := some 0x06, pcnt := pcnt } }

/-- A busy block: `phase` of `vwr a, d`, with `S.sel = 1`. -/
def writing (phase : Phase) (a : VAddr) (d : Byte) : State :=
  { idle with blk := { Block.reset with phase := phase, op := some .vwrite, addr := some a, data := some d, sel := 1 } }

/-- A busy block: `phase` of `sel DEV3`, with `S.sel = 0`. -/
def selecting (phase : Phase) : State :=
  { idle with blk := { Block.reset with
    phase := phase, op := some .select, dev := some 2, addr := some 0x4F, data := some 0x02, sel := 0 } }

/-- A state whose next transactions are answered so. -/
def answered (answers : List BusAnswer) (s : State) : State := { s with answers := answers }

/-- A state with this device and this kind of environment. -/
def facing (env : EnvKind) (d : Device) (s : State) : State := { s with env := env, dev := d }

/-- A device routed to die 1, whose register 0x06 holds 0x1B. -/
def die1 : Device := { Device.atStart with devsel := 1, vreg := [(134, 0x1B)] }

/-- A successful poll, already in the trace. -/
def polled (v : Byte) (s : State) : State := { s with trace := [.rd .status v] }

/-- A function of the next state. -/
def onNext {α : Type} (f : State → α) : Host.Outcome State Fault Refusal → Option α
  | .next s => some (f s)
  | .fault _ | .refused _ => none

/-- The outcome is a next state. -/
def isNext (o : Host.Outcome State Fault Refusal) : Bool := (onNext (fun _ => ()) o).isSome

theorem exists_next {o : Host.Outcome State Fault Refusal} (h : isNext o = true) : ∃ t, o = .next t := by
  cases o with
  | next s => exact ⟨s, rfl⟩
  | fault f => cases h
  | refused r => cases h

/-! ## Well-formedness (R130, R140): one ill-formed term for each check -/

theorem test_vrd_address : (AsmLine.vrd 0x80).wellFormed = false ∧ (AsmLine.vrd 0x7F).wellFormed = true := by decide
theorem test_vwr_address : (AsmLine.vwr 0x80 0).wellFormed = false := by decide
theorem test_vwr_data : (AsmLine.vwr 0 0x100).wellFormed = false ∧ (AsmLine.vwr 0x7F 0xFF).wellFormed = true := by decide
theorem test_sel_device : (AsmLine.sel 4).wellFormed = false ∧ (AsmLine.sel 3).wellFormed = true := by decide
theorem test_fdec_bytes : (AsmLine.fdec 256 0 0 0).wellFormed = false ∧ (AsmLine.fdec 0 256 0 0).wellFormed = false ∧
    (AsmLine.fdec 0 0 256 0).wellFormed = false ∧ (AsmLine.fdec 0 0 0 256).wellFormed = false := by decide
theorem test_perm_lanes : (AsmLine.perm (List.replicate 17 0)).wellFormed = false ∧
    (AsmLine.perm (2 ^ 32 :: List.replicate 17 0)).wellFormed = false := by decide
theorem test_pseudo_bounds : (Pseudo.rd16 0x7F).wellFormed = false ∧ (Pseudo.rdf 0x7D).wellFormed = false ∧
    (Pseudo.wrall 0x80 0).wellFormed = false ∧ (Pseudo.wrall 0 256).wellFormed = false := by decide
theorem test_bad_line_not_assembled : assemble (.vrd 0x80) = none := by decide

/-! ## Decoding: words written out bit by bit from R111 to R116 and R121 -/

theorem test_word_vread :
    decode (.req (plainRequest 0b000_00000000000_00_0_0000110_00000000#32)) = .ok (.vread 0x06) := by decide
theorem test_word_vwrite :
    decode (.req (plainRequest 0b001_00000000000_00_0_0000101_01000000#32)) = .ok (.vwrite 0x05 0x40) := by decide
theorem test_word_select :
    decode (.req (plainRequest 0b010_00000000000_01_0_0000000_00000000#32)) = .ok (.select 1) := by decide
theorem test_word_fdec : decode (.req ⟨0b011_00000000000_00_0_0000000_00000000#32, ⟨0x40, 0x49, 0x0F, 0xDB⟩, zeroLanes⟩) =
    .ok (.fdec ⟨0x40, 0x49, 0x0F, 0xDB⟩) := by decide
theorem test_word_perm : decode (.req ⟨0b100_00000000000_00_0_0000000_00000000#32, zeroBytes, Vector.replicate 18 7⟩) =
    .ok (.perm (Vector.replicate 18 7)) := by decide
theorem test_bytes_rdcmd : decode (.cmd [0b0_0000110#8]) = .ok (.rdcmd 0x06) := by decide
theorem test_bytes_wrcmd : decode (.cmd [0b1_0000101#8, 0b01000000#8]) = .ok (.wrcmd 0x05 0x40) := by decide
theorem test_descriptor_rd_status : decode (.txn 0b0_00_00000000#11) = .ok .busRdStatus := by decide
theorem test_descriptor_rd_read : decode (.txn 0b0_10_00000000#11) = .ok .busRdRead := by decide
theorem test_descriptor_wr_write : decode (.txn 0b1_01_10000101#11) = .ok (.busWrWrite 0x85) := by decide

/-- V1 to V13: reserved opcodes, reserved bits and fields that must be 0. -/
theorem test_illegal_words :
    [0xA0000000#32, 0xC0000000#32, 0xE0000000#32].all
      (fun w => decode (.req (plainRequest w)) = .error .reservedOpcode) = true ∧
    [0x00040000#32, 0x00008000#32, 0x7FFFFFFF#32].all
      (fun w => decode (.req (plainRequest w)) = .error .reservedBits) = true ∧
    [0x00010600#32, 0x00000601#32, 0x20010540#32, 0x40000100#32, 0x40000001#32, 0x60000001#32, 0x80010000#32].all
      (fun w => decode (.req (plainRequest w)) = .error .nonzeroField) = true := by decide
/-- Descriptors the block never issues (R121), and wire commands of a wrong length (R128). -/
theorem test_reserved_descriptors : decode (.txn 0x201) = .error .reservedDescriptor ∧
    decode (.txn 0x400) = .error .reservedDescriptor ∧ decode (.cmd [0x85]) = .error (.awaitingPayload 0x05) ∧
    decode (.cmd [0x06, 0x00]) = .error .trailingBytes ∧ decode (.cmd []) = .error .emptyCommand := by decide

/-- Each row of the opcode table, its free bits 0, decodes to its constructor. -/
theorem test_table_rows : [decodeTableWord 32 0x00000000, decodeTableWord 32 0x20000000, decodeTableWord 32 0x40000000,
      decodeTableWord 32 0x60000000, decodeTableWord 32 0x80000000, decodeTableWord 8 0x00, decodeTableWord 16 0x80,
      decodeTableWord 16 0x000, decodeTableWord 16 0x200, decodeTableWord 16 0x500] =
    [some (.vread 0), some (.vwrite 0 0), some (.select 0), some (.fdec zeroBytes), some (.perm zeroLanes),
      some (.rdcmd 0), some (.wrcmd 0 0), some .busRdStatus, some .busRdRead, some (.busWrWrite 0)] := by decide

/-- The first step after reset runs the instruction placed, whichever row it is of. -/
theorem test_table_rows_run :
    [(32, 0x00000600), (32, 0x20000540), (32, 0x40010000), (32, 0x60000000), (32, 0x80000000), (8, 0x06), (16, 0x4085),
      (16, 0x000), (16, 0x200), (16, 0x506)].all
      (fun r : Nat × Nat => isNext (step (State.reset.withFetchWord r.1 r.2))) = true := by decide

/-! ## One step of each instruction -/

/-- V20, first step: the request is latched and the stale check is next (R170). -/
theorem test_vread_accepted : onNext (fun s => (s.blk.phase, s.blk.op, s.blk.addr, s.port.length)) (step (offered 0x00000600)) =
    some (.rdStaleStat, some .vread, some 0x06, 0) := by decide
/-- V40, first step (R172). -/
theorem test_vwrite_accepted : onNext (fun s => (s.blk.phase, s.blk.addr, s.blk.data, s.trace)) (step (offered 0x20000540)) =
    some (.wrPollTx1, some 0x05, some 0x40, []) := by decide
/-- V51, first step: the payload is `DEVCODE(DEV2)` = 1 (R201). -/
theorem test_select_accepted : onNext (fun s => (s.blk.phase, s.blk.addr, s.blk.data, s.blk.sel)) (step (offered 0x40010000)) =
    some (.wrPollTx1, some 0x4F, some 0x01, 3) := by decide
/-- V53: `sel #3` with `S.sel = 0`. -/
theorem test_select_invalid :
    onNext (fun s => (s.blk.blkstat, s.trace, s.responses.map Response.code))
      (step { offered 0x40030000 with blk := { Block.reset with sel := 0 } }) =
    some (0x00000500, [], [.invalidDevice]) := by decide
/-- V62: 13176795/4194304. -/
theorem test_fdec_pi : (decodeFloat .ieee (floatWord ⟨0x40, 0x49, 0x0F, 0xDB⟩)) =
    ⟨0x40490FDB, 0, 128, 0x490FDB, .normal, false, .exact ⟨13176795, 4194304⟩⟩ := by decide
/-- V74, V76, V78 under `IEEE`; V75 under `FORMULA`. -/
theorem test_fdec_edges :
    (decodeFloat .ieee 0x807FFFFF).value = .exact ⟨-(2 ^ 23 - 1), 2 ^ 149⟩ ∧
    (decodeFloat .ieee 0xFF800000).value = .infinite true ∧ (decodeFloat .ieee 0x7F800001).value = .nan false 1 ∧
    (decodeFloat .formula 0x7F800000).value = .exact ⟨2 ^ 128, 1⟩ := by decide
/-- V80. -/
theorem test_perm_slots : ((reorder (Vector.ofFn fun k => BitVec.ofNat 32 (k.val + 1))).toList.map BitVec.toNat) =
    [1, 2, 3, 4, 5, 6, 7, 8, 13, 9, 14, 10, 15, 16, 17, 18, 11, 12] := by decide
/-- PERM through `exec` answers in the accepting step (R250). -/
theorem test_perm_answers : onNext (fun s => (s.blk.phase, s.responses.map Response.code))
    (exec (.perm (Vector.replicate 18 0xFFFFFFFF)) idle) = some (.idle, [.ok]) := by decide
/-- R97: the routed die's byte is placed in READ. -/
theorem test_rdcmd_places_byte :
    onNext (fun s => (s.dev.outbound, s.dev.slot)) (exec (.rdcmd 0x06) (facing .device { die1 with slot := .rd 0x06 } idle)) =
    some (some 0x1B, .empty) := by decide
/-- R98: the payload reaches register 0x05 of die 1, key 133. -/
theorem test_wrcmd_writes :
    onNext (fun s => (s.dev.vreg, s.dev.slot, s.dev.inbound))
      (exec (.wrcmd 0x05 0x40) (facing .device { die1 with slot := .wr 0x05, inbound := some 0x40 } idle)) =
    some ([(133, 0x40), (134, 0x1B)], .empty, none) := by decide
/-- R102: a full code written to 0x4F becomes the selection. -/
theorem test_wrcmd_devsel : onNext (fun s => s.dev.devsel) (exec (.wrcmd 0x4F 0x02) (facing .device die1 idle)) = some 2 := by
  decide
/-- V29c, last step: the transport error at the `POLL_LIMIT`-th poll is no timeout. -/
theorem test_poll_error : onNext (fun s => (s.blk.blkstat, s.trace, s.blk.lasterr.polls))
    (step (answered [.err ⟨9⟩ false] (reading .rdPollTx 2))) = some (0x00033700, [.terr .status .rd ⟨9⟩], 3) := by decide
/-- V27, last step: the third failed poll is the timeout, with no delay after it. -/
theorem test_poll_timeout : onNext (fun s => (s.blk.blkstat, s.trace, s.blk.lasterr.polls))
    (step (answered [.ok 0x02] (reading .rdPollRx 2))) = some (0x00035200, [.rd .status 0x02], 3) := by decide
/-- V24, last step: the byte read is the response's. -/
theorem test_fetch : onNext (fun s => (s.blk.phase, s.responses.map Response.rdata))
    (step (answered [.ok 0x42] (reading .rdFetch 0))) = some (.idle, [some 0x42]) := by decide
/-- V21, second transaction: the stale byte is in no response. -/
theorem test_stale_discard : onNext (fun s => (s.blk.phase, s.responses, s.trace))
    (step (answered [.ok 0xAA] (reading .rdStaleDiscard 0))) = some (.rdPollTx, [], [.rd .read 0xAA]) := by decide
/-- V48, last step: a VWRITE to 0x4F takes `S.sel` from 1 to 3. -/
theorem test_payload_clears_sel : onNext (fun s => (s.blk.blkstat, s.trace))
    (step (answered [.ok 0] (writing .wrData 0x4F 0x02))) = some (0x00030000, [.wr .write 0x02]) := by decide
/-- V55, last step: an error on SELECT's payload keeps `S.sel` = 0. -/
theorem test_payload_error : onNext (fun s => s.blk.blkstat) (step (answered [.err ⟨1⟩ true] (selecting .wrData))) =
    some 0x0000A700 := by decide

/-! ## Reset, the status word, illegal requests -/

/-- V90. -/
theorem test_reset_blkstat : State.reset.blk.blkstat = 0x00030000 := by decide
/-- V92. -/
theorem test_busy_blkstat : (reading .rdPollRx 1).blk.blkstat = 0x00030015 := by decide
/-- V2. -/
theorem test_illegal_request : onNext (fun s => (s.blk.blkstat, s.trace)) (step (offered 0xC0000000)) =
    some (0x00030800, []) := by decide
/-- R10's BUSREG and R121's REG and DIR: the descriptor of a write of 0x85 to WRITE. -/
theorem test_bus_registers : BusReg.status.offset = 0x00 ∧ BusReg.write.offset = 0x01 ∧ BusReg.read.offset = 0x02 ∧
    busDescriptor .wr .write 0x85 = 0x585 := by decide
/-- R76 and R77: the last byte of the last raw pair and of the last calibrated quad, and the first of each. -/
theorem test_sample_addresses : rawPairAddr 0 0 = 0x08 ∧ rawPairAddr 5 1 = 0x13 ∧ calQuadAddr 0 0 = 0x14 ∧
    calQuadAddr 5 3 = 0x2B := by decide
/-- Memory's canonical form: writing what an unlisted register reads as removes the entry. -/
theorem test_memory_canonical : Memory.write [(3, 1), (5, 2)] 5 0 = [(3, 1)] ∧ Memory.write [(3, 1)] 2 9 = [(2, 9), (3, 1)] := by
  decide

/-! ## Witnesses: states and operands that meet the hypotheses of each statement -/

/-- The block moves next: nothing is said of who moves. -/
theorem idle_turn (s : State) (h : s.inputs = []) : s.blockTurn s := .inl ⟨h, rfl⟩

/-- The device moves next. -/
def deviceNext (s : State) : State := { s with inputs := [.deviceMoves] }

theorem device_turn (s : State) (h : s.inputs = []) : (deviceNext s).deviceTurn s :=
  ⟨[], rfl, by cases s; cases h; rfl⟩

/-! ### Encodings -/

theorem witness_DecodedBitsAreTheEncoding : decode (.req (plainRequest 0x20007FFF)) = .ok (.vwrite 0x7F 0xFF) ∧
    decode (.cmd [0x7F]) = .ok (.rdcmd 0x7F) ∧ decode (.cmd [0xFF, 0xFF]) = .ok (.wrcmd 0x7F 0xFF) ∧
    decode (.txn 0x5FF) = .ok (.busWrWrite 0xFF) := by decide

/-- A word for each request clause, its free bits all ones, and one for none of them. -/
theorem witness_OpcodeMapIsTheDecoder :
    (0x00007F00#32 &&& 0xFFFF80FF#32 = 0x00000000#32) ∧ (0x20007FFF#32 &&& 0xFFFF8000#32 = 0x20000000#32) ∧
    (0x40030000#32 &&& 0xFFFCFFFF#32 = 0x40000000#32) ∧ (0x60000000#32 &&& 0xFFFFFFFF#32 = 0x60000000#32) ∧
    (0x80000000#32 &&& 0xFFFFFFFF#32 = 0x80000000#32) ∧
    (0xA0000000#32 &&& 0xFFFF80FF#32 ≠ 0x00000000#32 ∧ 0xA0000000#32 &&& 0xFFFF8000#32 ≠ 0x20000000#32 ∧
      0xA0000000#32 &&& 0xFFFCFFFF#32 ≠ 0x40000000#32 ∧ 0xA0000000#32 ≠ 0x60000000#32 ∧
      0xA0000000#32 ≠ 0x80000000#32) ∧
    (0x7F#8 &&& 0x80#8 = 0x00#8) ∧ (0xFF#8 &&& 0x80#8 = 0x80#8) ∧ (0x5FF#11 &&& 0x700#11 = 0x500#11) ∧
    (0x7FF#11 ≠ 0x000#11 ∧ 0x7FF#11 ≠ 0x200#11 ∧ 0x7FF#11 &&& 0x700#11 ≠ 0x500#11) := by decide

theorem witness_OperandAssemblyIsExact :
    (writing .wrData 0x7F 0xFF).blk.phase = .wrData ∧ (writing .wrData 0x7F 0xFF).blk.data = some 0xFF := by decide

theorem witness_AssemblerLinesEncode : (List.replicate 18 (2 ^ 32 - 1)).length = 18 ∧
    (List.replicate 18 (2 ^ 32 - 1)).all (· < 2 ^ 32) = true ∧ (AsmLine.perm []).wellFormed = false ∧
    0x7F < 0x80 ∧ 0xFF < 0x100 ∧ 3 < 4 ∧ (List.replicate 17 0).length ≠ 18 ∧
    (∃ x ∈ 2 ^ 32 :: List.replicate 17 0, 2 ^ 32 ≤ x) := by decide

/-- A response with `OK` and one with an error. -/
def good : Response := ⟨.ok, some 1, some (decodeFloat .ieee 0), none, .idle, 0, none⟩
def bad : Response := ⟨.timeoutRdRx, none, none, none, .rdPollRx, 3, none⟩

theorem witness_PseudoOperationsExpand : good.code = .ok ∧ good.rdata = some 1 ∧ good.fp = some (decodeFloat .ieee 0) ∧
    bad.code ≠ .ok := by decide

/-! ### What a step runs -/

theorem witness_StepRunsTheOfferedRequest : (offered 0x00007F00).blockTurn (offered 0x00007F00) ∧
    (offered 0x00007F00).blk.phase = .idle ∧ (offered 0x00007F00).port = plainRequest 0x00007F00 :: [] ∧
    decode (.req (plainRequest 0x00007F00)) = .ok (.vread 0x7F) := ⟨idle_turn _ rfl, rfl, rfl, by decide⟩

theorem witness_StepRunsTheTransactionOfThePhase :
    (reading .rdStaleStat 0).blockTurn (reading .rdStaleStat 0) ∧ (reading .rdStaleStat 0).blk.phase = .rdStaleStat ∧
    (reading .rdFetch 0).blk.phase = .rdFetch ∧
    ((reading .rdCmd 0).blk.phase = .rdCmd ∧ (reading .rdCmd 0).blk.addr = some 0x06) ∧
    ((writing .wrCmd 0x7F 0xFF).blk.phase = .wrCmd ∧ (writing .wrCmd 0x7F 0xFF).blk.addr = some 0x7F) ∧
    ((writing .wrData 0x7F 0xFF).blk.phase = .wrData ∧ (writing .wrData 0x7F 0xFF).blk.data = some 0xFF) :=
  ⟨idle_turn _ rfl, rfl, rfl, ⟨rfl, rfl⟩, ⟨rfl, rfl⟩, ⟨rfl, rfl⟩⟩

/-- A device's turn with a read in flight, a write with its payload, and a command byte of each kind. -/
theorem witness_StepRunsTheWireCommand :
    (deviceNext idle).deviceTurn idle ∧
    (facing .device { die1 with slot := .rd 0x7F } idle).dev.slot = .rd 0x7F ∧
    ((facing .device { die1 with slot := .wr 0x7F, inbound := some 0xFF } idle).dev.slot = .wr 0x7F ∧
      (facing .device { die1 with slot := .wr 0x7F, inbound := some 0xFF } idle).dev.inbound = some 0xFF) ∧
    (0x7F#8).getLsbD 7 = false ∧ (0x80#8).getLsbD 7 = true ∧ die1.slot = .empty ∧ die1.inbound = none :=
  ⟨device_turn _ rfl, rfl, ⟨rfl, rfl⟩, by decide, by decide, rfl, rfl⟩

theorem witness_IllegalRequestEndsAtDecode : (offered 0xE0000000).blockTurn (offered 0xE0000000) ∧
    (offered 0xE0000000).blk.phase = .idle ∧ (offered 0xE0000000).port = plainRequest 0xE0000000 :: [] ∧
    decode (.req (plainRequest 0xE0000000)) = .error .reservedOpcode := ⟨idle_turn _ rfl, rfl, rfl, by decide⟩

theorem witness_BusyBlockHoldsRequests : (reading .rdPollTx 0).blk.phase ≠ .idle ∧
    ∃ t, step (answered [.ok 0] (reading .rdPollTx 0)) = .next t := ⟨by decide, exists_next (by decide)⟩

theorem witness_IdleStepWithoutRequestChangesNothing : idle.blockTurn idle ∧ idle.blk.phase = .idle ∧ idle.port = [] :=
  ⟨idle_turn _ rfl, rfl, rfl⟩

/-! ### The five operations -/

theorem witness_HandshakeRequestsAreAccepted : idle.blk.phase = .idle ∧ idle.params.devCode.dev1 = 0 ∧
    idle.params.devCode.dev2 = 1 ∧ idle.params.devCode.dev3 = 2 := by decide
theorem witness_SelectOfNoDieIsInvalid : idle.blk.phase = .idle := by decide
theorem witness_FdecCompletes : idle.blk.phase = .idle := by decide
/-- Exponents 1, 254, 0 and 255, with and without a fraction. -/
theorem witness_FloatValueIsExact :
    [0x00800000#32, 0x7F7FFFFF#32, 0x00000000#32, 0x00000001#32, 0x7F800000#32, 0x7FFFFFFF#32].map
      (fun w => ((w.extractLsb' 23 8).toNat, (w.extractLsb' 0 23).toNat)) =
    [(1, 0), (254, 2 ^ 23 - 1), (0, 0), (0, 1), (255, 0), (255, 2 ^ 23 - 1)] := by decide
theorem witness_FpModesAgreeOnNormalWords : (decodeFloat .ieee 0x00800000).cls = .normal := by decide
theorem witness_IeeeValueDeterminesTheWord : (decodeFloat .ieee 0x00000001).value = (decodeFloat .ieee 0x00000001).value := rfl
theorem witness_PermCompletes : idle.blk.phase = .idle := by decide
theorem witness_ReorderHasOrderTen : (7 : Fin 18).val < 8 ∧ 0 < 9 ∧ 9 < 10 := by decide

/-! ### The phases -/

/-- What a status read answers in a polling phase: an error, a ready byte, a byte that is not ready; and both counts. -/
theorem witness_PollingPhasesFollowPollStep :
    (answered [.err ⟨0⟩ true] (reading .rdPollTx 0)).busReadStatus.1 = .err ⟨0⟩ true ∧
    (answered [.ok 0xFD] (reading .rdPollTx 0)).busReadStatus.1 = .ok 0xFD ∧ (0xFD#8).getLsbD 1 = false ∧
    (answered [.ok 0x02] (reading .rdPollTx 2)).busReadStatus.1 = .ok 0x02 ∧ (0x02#8).getLsbD 1 ≠ false ∧
    (0x01#8).getLsbD 0 = true ∧ (0x02#8).getLsbD 0 ≠ true ∧
    (reading .rdPollTx 2).params.pollLimit = .reads ((reading .rdPollTx 2).blk.pcnt + 1) ∧
    (reading .rdPollTx 1).params.pollLimit ≠ .reads ((reading .rdPollTx 1).blk.pcnt + 1) ∧
    [(reading .rdPollTx 0).blk.phase, (reading .rdPollRx 0).blk.phase, (writing .wrPollTx1 0x7F 0).blk.phase,
      (writing .wrPollTx2 0x7F 0).blk.phase] = [.rdPollTx, .rdPollRx, .wrPollTx1, .wrPollTx2] := by decide

theorem witness_StaleStatusCheck : (reading .rdStaleStat 0).blk.phase = .rdStaleStat ∧
    (answered [.err ⟨0⟩ false] (reading .rdStaleStat 0)).busReadStatus.1 = .err ⟨0⟩ false ∧
    (answered [.ok 0x01] (reading .rdStaleStat 0)).busReadStatus.1 = .ok 0x01 ∧ (0x01#8).getLsbD 0 = true ∧
    (answered [.ok 0xFE] (reading .rdStaleStat 0)).busReadStatus.1 = .ok 0xFE ∧ (0xFE#8).getLsbD 0 = false := by decide

theorem witness_SingleTransactionPhasesAdvance :
    ((reading .rdStaleDiscard 0).blk.phase = .rdStaleDiscard ∧
      (answered [.err ⟨0⟩ true] (reading .rdStaleDiscard 0)).busReadRead.1 = .err ⟨0⟩ true ∧
      (answered [.ok 0xFF] (reading .rdStaleDiscard 0)).busReadRead.1 = .ok 0xFF) ∧
    ((reading .rdCmd 0).blk.phase = .rdCmd ∧
      ((answered [.err ⟨0⟩ true] (reading .rdCmd 0)).busWrite 0x06).1 = .err ⟨0⟩ true ∧
      ((answered [.ok 0] (reading .rdCmd 0)).busWrite 0x06).1 = .ok 0) ∧
    ((writing .wrCmd 0x7F 0).blk.phase = .wrCmd ∧
      ((answered [.err ⟨0⟩ true] (writing .wrCmd 0x7F 0)).busWrite 0xFF).1 = .err ⟨0⟩ true ∧
      ((answered [.ok 0] (writing .wrCmd 0x7F 0)).busWrite 0xFF).1 = .ok 0) := by decide

theorem witness_FetchCompletesTheRead : (reading .rdFetch 0).blk.phase = .rdFetch ∧
    (reading .rdFetch 0).blk.op = some .vread ∧
    (answered [.err ⟨0⟩ true] (reading .rdFetch 0)).busReadRead.1 = .err ⟨0⟩ true ∧
    (answered [.ok 0xFF] (reading .rdFetch 0)).busReadRead.1 = .ok 0xFF := by decide

/-- The three completions: a SELECT, a VWRITE to 0x4F, a VWRITE to the addresses beside it. -/
theorem witness_PayloadCompletesTheWrite :
    ((selecting .wrData).blk.phase = .wrData ∧ (selecting .wrData).blk.op = some .select ∧
      (selecting .wrData).blk.dev = some 2) ∧
    ((writing .wrData 0x4F 0).blk.op = some .vwrite ∧ (writing .wrData 0x4F 0).blk.addr = some 0x4F) ∧
    ((writing .wrData 0x4E 0).blk.addr = some 0x4E ∧ (0x4E#7) ≠ 0x4F#7 ∧ (0x50#7) ≠ 0x4F#7) ∧
    ((answered [.err ⟨0⟩ true] (selecting .wrData)).busWrite 2).1 = .err ⟨0⟩ true ∧
    ((answered [.ok 0] (selecting .wrData)).busWrite 2).1 = .ok 0 := by decide

theorem witness_BusPrimitivesComplete :
    (reading .rdFetch 0).blk.phase = .rdFetch ∧ (reading .rdFetch 0).blk.latchOk params3.devCode = true ∧
    (writing .wrData 0x7F 0).blk.phase = .wrData ∧ (writing .wrData 0x7F 0).blk.latchOk params3.devCode = true ∧
    (selecting .wrData).blk.latchOk params3.devCode = true ∧
    (idle.blk.phase ≠ .rdStaleStat ∧ idle.blk.phase.isPolling = false) ∧
    (idle.blk.phase ≠ .rdStaleDiscard ∧ idle.blk.phase ≠ .rdFetch) ∧
    (idle.blk.phase ≠ .rdCmd ∧ idle.blk.phase ≠ .wrCmd ∧ idle.blk.phase ≠ .wrData) := by decide

theorem witness_OnlyStatusBitsZeroAndOneMatter : (0xFD#8).getLsbD 0 = (0x01#8).getLsbD 0 ∧
    (0xFD#8).getLsbD 1 = (0x01#8).getLsbD 1 := by decide

/-! ### The environment -/

theorem witness_OracleAnswersAnything : (answered [.err ⟨7⟩ true] idle).env = .oracle ∧
    (answered [.err ⟨7⟩ true] idle).answers = .err ⟨7⟩ true :: [] := by decide

theorem witness_DeviceAnswersFromItsRegisters :
    (facing .device { die1 with outbound := some 0xFF } idle).env = .device ∧
    (facing .device { die1 with outbound := some 0xFF } idle).answers = [] ∧
    (facing .device { die1 with outbound := some 0xFF } idle).dev.outbound = some 0xFF ∧
    (facing .device die1 idle).dev.inbound = none := by decide

theorem witness_ReferenceDeviceAnswers : (facing .reference die1 idle).env = .reference ∧
    (facing .reference die1 idle).params.devCode = ⟨0, 1, 2⟩ ∧ (facing .reference die1 idle).dev.devsel ≠ 3 ∧
    (facing .reference die1 idle).dev.vreg.wf = true ∧ (facing .reference die1 idle).dev.txb = 0 ∧
    (facing .reference die1 idle).dev.outbound = none ∧
    ((facing .reference { die1 with outbound := some 1 } idle).dev.outbound = some 1 ∧
      (facing .reference { die1 with outbound := some 1 } idle).dev.rxw = 0) ∧
    (facing .reference { die1 with slot := .wr 0x7F } idle).dev.slot = .wr 0x7F ∧
    (facing .reference die1 idle).dev.slot = .empty ∧ (0x80#8).getLsbD 7 = true ∧ (0x7F#8).getLsbD 7 = false := by decide

theorem witness_RoutingFollowsDevcode : params3.wf = true := by decide

/-- A listed address at each end of the map, an unlisted one, 0x4F, and a routed die. -/
theorem witness_ReadCommandPlacesTheByte : (facing .device die1 idle).env ≠ .reference ∧
    (facing .device die1 idle).dev.outbound = none ∧ routedDie params3.devCode die1.devsel = some .dev2 ∧
    isListed 0x00 = true ∧ isListed 0x2B = true ∧ isListed 0x7F = false ∧ (0x2B#7) ≠ 0x4F#7 ∧
    (facing .reference die1 idle).env = .reference := by decide

theorem witness_WriteCommandWritesTheRegister : die1.vreg.wf = true ∧
    routedDie params3.devCode die1.devsel = some .dev2 ∧ isListed 0x2B = true ∧
    (0x02#8 = 0#6 ++ codeOfDie params3.devCode .dev3) ∧ routedDie params3.devCode 3 = none ∧
    (isListed 0x2C = false ∧ (facing .device die1 idle).env ≠ .reference) := by decide

/-- A payload the reference device stores, and each way a write of WRITE stores nothing. -/
theorem witness_BusTransactionsStoreWhereTheSlotSays : die1.vreg.wf = true ∧
    isNext (exec .busRdStatus (facing .reference die1 idle)) = true ∧
    isNext (exec .busRdRead (facing .reference die1 idle)) = true ∧
    isNext (exec (.busWrWrite 0xFF) (facing .reference { die1 with slot := .wr 0x7F } idle)) = true ∧
    (facing .reference { die1 with slot := .wr 0x7F } idle).dev.txb = 0 ∧ (0x7F#7) ≠ 0x4F#7 ∧
    routedDie params3.devCode die1.devsel = some .dev2 ∧ (facing .device die1 idle).env ≠ .reference ∧
    0 < { die1 with txb := 1 }.txb ∧ routedDie params3.devCode 3 = none ∧
    (facing .reference { die1 with slot := .wr 0x4F } idle).dev.slot = .wr 0x4F ∧
    isNext (exec (.busWrWrite 0x02) (facing .reference { die1 with slot := .wr 0x4F } idle)) = true := by decide

theorem witness_RegistersChangeOnlyWhereAWriteIsInFlight : die1.vreg.wf = true ∧
    ∃ t, step (deviceNext (facing .device { die1 with slot := .wr 0x05, inbound := some 0x40 } idle)) = .next t :=
  ⟨by decide, exists_next (by decide)⟩

/-! ### Whole-machine rules and invariants -/

theorem witness_ParametersNeverChange : ∃ t, step (offered 0x00000600) = .next t := exists_next (by decide)
theorem witness_SelectionHasThreeWriters : (selecting .wrData).blk.latchOk params3.devCode = true ∧
    ∃ t, step (answered [.ok 0] (selecting .wrData)) = .next t := ⟨by decide, exists_next (by decide)⟩
theorem witness_LatchIsWrittenAtAcceptance : ∃ t, step (offered 0x20000540) = .next t := exists_next (by decide)
theorem witness_StepMakesAtMostOneTransaction : ∃ t, step (answered [.ok 2] (reading .rdPollTx 0)) = .next t :=
  exists_next (by decide)
theorem witness_DelayFollowsExactlyFailedPolls : ∃ t, step (answered [.ok 2] (reading .rdPollTx 1)) = .next t :=
  exists_next (by decide)
theorem witness_AnOperationEndsInIdleWithOneResponse : ∃ t, step (answered [.ok 2] (reading .rdPollTx 2)) = .next t :=
  exists_next (by decide)
theorem witness_ResetSetsEveryBlockField : ({ reading .rdFetch 0 with inputs := [.reset] } : State).inputs = .reset :: [] := rfl

/-- A busy state that meets the invariant: `RD_CMD` after a successful poll. -/
theorem witness_StepKeepsTheInvariant : (polled 0xFD (reading .rdCmd 0)).Inv ∧
    ∃ t, step (answered [.ok 0] (polled 0xFD (reading .rdCmd 0))) = .next t :=
  ⟨⟨by decide, by decide, by decide, by decide, by decide, by decide, by decide, by decide⟩, exists_next (by decide)⟩
theorem witness_StepKeepsTheBusSafe : (polled 0x01 (reading .rdFetch 0)).busSafe = true ∧
    ∃ t, step (answered [.ok 0] (polled 0x01 (reading .rdFetch 0))) = .next t := ⟨by decide, exists_next (by decide)⟩
theorem witness_PollCountStaysBelowTheLimit : params3.wf = true ∧ (reading .rdPollRx 2).blk.pollsOk (.reads 3) = true ∧
    ∃ t, step (answered [.ok 0] (reading .rdPollRx 2)) = .next t := ⟨by decide, by decide, exists_next (by decide)⟩
/-- A failed poll that stays in its loop, a loop entered, and a step that polls nothing. -/
theorem witness_PollCountClauses :
    onNext (fun s => (s.blk.phase, s.trace.length)) (step (answered [.ok 0] (reading .rdPollRx 1))) = some (.rdPollRx, 2) ∧
    onNext (fun s => s.blk.phase) (step (answered [.ok 0] (reading .rdCmd 0))) = some .rdPollRx ∧
    onNext (fun s => (s.blk.phase, s.trace)) (step (deviceNext (reading .rdPollRx 1))) = some (.rdPollRx, []) := by decide
theorem witness_NothingStopsUnderTheInvariant : (polled 0x01 (reading .rdFetch 0)).Inv :=
  ⟨by decide, by decide, by decide, by decide, by decide, by decide, by decide, by decide⟩

/-! ### Runs -/

/-- Two failed polls and a last one in each loop, `POLL_LIMIT` = 3. -/
theorem witness_PollingLoopTimesOut : (reading .rdPollRx 0).env = .oracle ∧ (reading .rdPollRx 0).inputs = [] ∧
    (reading .rdPollRx 0).blk.pcnt = 0 ∧ (reading .rdPollRx 0).params.pollLimit = .reads ([0x02#8, 0xFE#8].length + 1) ∧
    [0x02#8, 0xFE#8].all (fun v => v.getLsbD 0 ≠ true) = true ∧ [0x02#8, 0xFE#8].all (fun v => v.getLsbD 1 ≠ false) = true ∧
    (answered ([0x02#8, 0xFE#8].map .ok ++ .ok 0x02 :: []) (reading .rdPollRx 0)).answers =
      [0x02#8, 0xFE#8].map .ok ++ .ok 0x02 :: [] := by decide

/-- The parameters with no bound. -/
def unbounded (s : State) : State := { s with params := { params3 with pollLimit := .inf } }

theorem witness_UnboundedPollingNeverEnds : (unbounded (reading .rdPollRx 0)).params.pollLimit = .inf ∧
    (unbounded (reading .rdPollRx 0)).env = .oracle ∧ (unbounded (reading .rdPollRx 0)).inputs = [] ∧
    (unbounded (reading .rdPollRx 0)).blk.phase = .rdPollRx ∧ [0x02#8].all (fun v => v.getLsbD 0 = false) = true ∧
    (unbounded (reading .rdPollTx 0)).blk.phase = .rdPollTx ∧ [0x02#8].all (fun v => v.getLsbD 1 = true) = true ∧
    (answered ([0x02#8].map .ok ++ []) (unbounded (reading .rdPollRx 0))).answers = [0x02#8].map .ok ++ [] := by decide

theorem witness_ReadEndsWithinItsBound : (offered 0x00007F00).inputs = [] ∧
    (offered 0x00007F00).params.pollLimit = .reads 3 ∧ 1 ≤ 3 ∧ (offered 0x00007F00).blk.phase = .idle ∧
    (offered 0x00007F00).port = plainRequest 0x00007F00 :: [] ∧
    decode (.req (plainRequest 0x00007F00)) = .ok (.vread 0x7F) := ⟨rfl, rfl, by decide, rfl, rfl, by decide⟩

theorem witness_WriteEndsWithinItsBound : (offered 0x20007FFF).inputs = [] ∧
    (offered 0x20007FFF).params.pollLimit = .reads 3 ∧ 1 ≤ 3 ∧ (offered 0x20007FFF).blk.phase = .idle ∧
    (offered 0x20007FFF).port = plainRequest 0x20007FFF :: [] ∧
    decode (.req (plainRequest 0x20007FFF)) = .ok (.vwrite 0x7F 0xFF) ∧
    decode (.req (plainRequest 0x40030000)) = .ok (.select 3) := ⟨rfl, rfl, by decide, rfl, rfl, by decide, by decide⟩

/-- V22's polls, after a stale byte as in V21. -/
def readAnswers (s0 : Byte) (stale : Option Byte) : List BusAnswer :=
  .ok s0 :: (stale.toList.map .ok ++ ([0x02#8, 0x02#8].map .ok ++ .ok 0x00 :: .ok 0 ::
    ([0x00#8, 0x00#8].map .ok ++ .ok 0x01 :: .ok 0x77 :: [])))

theorem witness_ReadHandshakeTrace :
    (answered (readAnswers 0x01 (some 0xAA)) (offered 0x00000600)).env = .oracle ∧
    (answered (readAnswers 0x01 (some 0xAA)) (offered 0x00000600)).inputs = [] ∧
    (answered (readAnswers 0x01 (some 0xAA)) (offered 0x00000600)).blk.phase = .idle ∧
    (answered (readAnswers 0x01 (some 0xAA)) (offered 0x00000600)).port = plainRequest 0x00000600 :: [] ∧
    decode (.req (plainRequest 0x00000600)) = .ok (.vread 0x06) ∧
    (0x01#8).getLsbD 0 = (some (0xAA : Byte)).isSome ∧ (0xFE#8).getLsbD 0 = (none : Option Byte).isSome ∧
    (0x00#8).getLsbD 1 = false ∧ (0x01#8).getLsbD 0 = true ∧
    [0x02#8, 0x02#8].all (fun v => v.getLsbD 1 = true) = true ∧ [0x00#8, 0x00#8].all (fun v => v.getLsbD 0 = false) = true ∧
    limitAllows (offered 0x00000600).params.pollLimit [0x02#8, 0x02#8].length ∧
    (answered (readAnswers 0x01 (some 0xAA)) (offered 0x00000600)).answers = readAnswers 0x01 (some 0xAA) :=
  ⟨rfl, rfl, rfl, rfl, by decide, by decide, by decide, by decide, by decide, by decide, by decide,
    show 2 < 3 by decide, rfl⟩

/-- V41's polls; a VWRITE, a VWRITE to 0x4F, and a SELECT. -/
def writeAnswers : List BusAnswer :=
  [0x02#8].map .ok ++ .ok 0x00 :: .ok 0 :: ([0x02#8, 0x02#8].map .ok ++ .ok 0x00 :: .ok 0 :: [])

theorem witness_WriteHandshakeTrace :
    (answered writeAnswers (offered 0x20000540)).env = .oracle ∧
    (answered writeAnswers (offered 0x20000540)).inputs = [] ∧
    (answered writeAnswers (offered 0x20000540)).blk.phase = .idle ∧
    (answered writeAnswers (offered 0x20000540)).port = plainRequest 0x20000540 :: [] ∧
    decode (.req (plainRequest 0x20000540)) = .ok (.vwrite 0x05 0x40) ∧
    decode (.req (plainRequest 0x20004F02)) = .ok (.vwrite 0x4F 0x02) ∧
    decode (.req (plainRequest 0x40020000)) = .ok (.select 2) ∧ dieOfId 2 = some .dev3 ∧
    (0x02#8 = 0#6 ++ codeOfDie params3.devCode .dev3) ∧
    (0x00#8).getLsbD 1 = false ∧ [0x02#8, 0x02#8].all (fun v => v.getLsbD 1 = true) = true ∧
    limitAllows (offered 0x20000540).params.pollLimit [0x02#8, 0x02#8].length ∧
    (answered writeAnswers (offered 0x20000540)).answers = writeAnswers :=
  ⟨rfl, rfl, rfl, rfl, by decide, by decide, by decide, by decide, by decide, by decide, by decide,
    show 2 < 3 by decide, rfl⟩

/-- Program 1, request 2. -/
theorem witness_ReferenceReadReturnsTheRegister :
    (facing .reference die1 (unbounded (offered 0x00000600))).env = .reference ∧
    (facing .reference die1 (unbounded (offered 0x00000600))).inputs = [] ∧
    (unbounded (offered 0x00000600)).params.pollLimit = .inf ∧ (offered 0x00000600).blk.phase = .idle ∧
    decode (.req (plainRequest 0x00000600)) = .ok (.vread 0x06) ∧ die1.slot = .empty ∧
    routedDie params3.devCode die1.devsel ≠ none := ⟨rfl, rfl, rfl, rfl, by decide, rfl, by decide⟩

/-- Program 1, request 1. -/
theorem witness_ReferenceSelectRoutes :
    (facing .reference die1 (unbounded (offered 0x40010000))).env = .reference ∧
    (facing .reference die1 (unbounded (offered 0x40010000))).inputs = [] ∧
    (unbounded (offered 0x40010000)).params.pollLimit = .inf ∧ (unbounded (offered 0x40010000)).params.wf = true ∧
    decode (.req (plainRequest 0x40010000)) = .ok (.select 1) ∧ dieOfId 1 = some .dev2 ∧ die1.slot = .empty :=
  ⟨rfl, rfl, rfl, by decide, by decide, by decide, rfl⟩
/-- The routing of die 1 with a write of another register in flight. -/
theorem witness_ReferenceSelectRoutes_stays :
    isNext (step (deviceNext (facing .device { die1 with slot := .wr 0x4E, inbound := some 1 } idle))) = true ∧
    routedDie params3.devCode die1.devsel = some .dev2 ∧ Slot.wr 0x4E ≠ .wr 0x4F#7 ∧
    (∀ d more, (deviceNext (facing .device { die1 with slot := .wr 0x4E, inbound := some 1 } idle)).inputs ≠
      .deviceChanges d :: more) := ⟨by decide, by decide, by decide, by intro d more h; cases h⟩

theorem witness_BusAccessesAreThoseOfTheTable : ∃ t, step (answered [.ok 0] (reading .rdCmd 0)) = .next t :=
  exists_next (by decide)

end Sys2Proof.Tests
end

section
/-! PROOFS. The scope statements: what the oracle answers (R8, R72), and which bus accesses a step may record (R70, R71,
R121). -/

namespace Sys2Proof.Machine

/-! ## The oracle's scripted answer -/

/-- The oracle gives the head of its script and moves on by one answer, whatever the transaction. -/
theorem oracleAnswer_scripted {s : State} {a : BusAnswer} {rest : List BusAnswer} (h : s.answers = a :: rest)
    (dir : Dir) (r : BusReg) (b : Byte) : s.oracleAnswer dir r b = (a, { s with answers := rest }) := by
  simp [State.oracleAnswer, h]

theorem answerStatus_oracle {s : State} (h : s.env = .oracle) : s.answerStatus = s.oracleAnswer .rd .status 0 := by
  simp [State.answerStatus, h]

theorem answerRead_oracle {s : State} (h : s.env = .oracle) : s.answerRead = s.oracleAnswer .rd .read 0 := by
  simp [State.answerRead, h]

theorem answerWrite_oracle {s : State} (h : s.env = .oracle) (b : Byte) :
    s.answerWrite b = s.oracleAnswer .wr .write b := by
  simp [State.answerWrite, h]

/-- Settles O30: each primitive asks the oracle, whose answer is the script's head. -/
theorem oracleAnswersAnything : Obligations.OracleAnswersAnything := by
  intro s a rest henv hscript
  have hanswer := oracleAnswer_scripted hscript
  refine ⟨?_, ?_, fun b => ?_⟩
  · rw [State.busReadStatus, answerStatus_oracle henv, hanswer]; rfl
  · rw [State.busReadRead, answerRead_oracle henv, hanswer]; rfl
  · rw [State.busWrite, answerWrite_oracle henv, hanswer]; rfl

/-! ## Transaction descriptors in numbers -/

theorem txnWord_toNat (kind : BitVec 3) (data : Byte) :
    (txnWord kind data).toNat = kind.toNat * 2 ^ 8 + data.toNat := by
  rw [txnWord, BitVec.toNat_append, Nat.shiftLeft_eq, Nat.mul_comm, Nat.two_pow_add_eq_or_of_lt data.isLt]

/-- `DIR ‖ REG` (R121): the register's code is its offset of R70. -/
theorem dirReg_toNat (dir : Dir) (r : BusReg) :
    (dir.code ++ r.code).toNat = (if dir = .wr then 2 ^ 2 else 0) + r.offset.toNat := by
  cases dir <;> cases r <;> rfl

theorem busDescriptor_toNat (dir : Dir) (r : BusReg) (b : Byte) :
    (busDescriptor dir r b).toNat = (if dir = .wr then 2 ^ 10 else 0) + r.offset.toNat * 2 ^ 8 + b.toNat := by
  rw [busDescriptor, txnWord_toNat, dirReg_toNat]
  split <;> omega

theorem offset_le (r : BusReg) : r.offset.toNat ≤ 0x02 := by
  cases r <;> decide

/-! ## What a step records -/

/-- The accesses of R71, written out. -/
theorem allowed_iff (e : Event) : e.allowed = true ↔ e = .dly ∨
    (∃ v, e = .rd .status v ∨ e = .rd .read v ∨ e = .wr .write v) ∨
    ∃ info, e = .terr .status .rd info ∨ e = .terr .read .rd info ∨ e = .terr .write .wr info := by
  cases e with
  | rd r v => cases r <;> simp [Event.allowed]
  | wr r v => cases r <;> simp [Event.allowed]
  | terr r dir info => cases r <;> cases dir <;> simp [Event.allowed]
  | dly => simp [Event.allowed]

/-- Every row of the transition table R167 belongs to an access of R71. -/
theorem busyResult_allowed {s1 t : State} {e : Event} (h : BusyResult s1 e t) : e.allowed = true := by
  cases h with
  | failed _ _ _ hallowed => exact hallowed
  | _ => rfl

/-- After its transaction a phase rule records nothing, or the delay of a failed poll (R154). -/
theorem busyResult_trace {s1 t : State} {e : Event} (h : BusyResult s1 e t) :
    t.trace = s1.trace ∨ t.trace = .dly :: s1.trace := by
  cases h with
  | retry => exact .inr rfl
  | _ => exact .inl rfl

theorem acceptResult_trace {s1 t : State} {i : Instr} (h : AcceptResult s1 i t) : t.trace = s1.trace := by
  cases h <;> rfl

theorem blockTurn_trace {s s0 : State} (h : s.blockTurn s0) : s0.trace = s.trace := by
  obtain ⟨-, -, -, -, htrace, -⟩ := blockTurn_keeps h
  exact htrace

theorem deviceTurn_trace {s s0 : State} (h : s.deviceTurn s0) : s0.trace = s.trace := by
  obtain ⟨more, -, rfl⟩ := h
  rfl

/-- A busy block's step records one access of R71, and at most a delay after it. -/
theorem busyStep_trace {s0 t : State} (h : BusyStep s0 t) :
    ∃ e : Event, e.allowed = true ∧ (t.trace = e :: s0.trace ∨ t.trace = .dly :: e :: s0.trace) := by
  obtain ⟨e, s1, htxn, -, hresult⟩ := h
  exact ⟨e, busyResult_allowed hresult, htxn.trace ▸ busyResult_trace hresult⟩

/-- A step records nothing, or one access of R71 and at most a delay after it. -/
theorem step_trace {s t : State} (h : step s = .next t) : t.trace = s.trace ∨
    ∃ e : Event, e.allowed = true ∧ (t.trace = e :: s.trace ∨ t.trace = .dly :: e :: s.trace) := by
  cases step_result h with
  | waits _ hturn => exact .inl (blockTurn_trace hturn)
  | rejects _ _ _ _ hturn =>
    have hkept := blockTurn_trace hturn
    exact .inl hkept
  | accepts _ _ _ _ _ hturn _ _ _ haccept =>
    have hkept := blockTurn_trace hturn
    exact .inl ((acceptResult_trace haccept).trans hkept)
  | busy _ _ hturn _ hbusy => exact .inr (blockTurn_trace hturn ▸ busyStep_trace hbusy)
  | device _ _ _ _ hturn =>
    have hkept := deviceTurn_trace hturn
    exact .inl hkept
  | changes => exact .inl rfl
  | offers => exact .inl rfl
  | resets => exact .inl rfl

/-- Whatever a step adds to the trace is allowed by R71. -/
theorem step_records_allowed {s t : State} (h : step s = .next t) {e : Event} (he : e ∈ t.trace) :
    e ∈ s.trace ∨ e.allowed = true := by
  obtain heq | ⟨access, hallowed, heq | heq⟩ := step_trace h <;> rw [heq] at he
  · exact .inl he
  · obtain rfl | hold := List.mem_cons.mp he
    · exact .inr hallowed
    · exact .inl hold
  · obtain rfl | hrest := List.mem_cons.mp he
    · exact .inr rfl
    · obtain rfl | hold := List.mem_cons.mp hrest
      · exact .inr hallowed
      · exact .inl hold

/-- Settles O59: offsets and descriptors in numbers, and the accesses from `step_records_allowed`. -/
theorem busAccessesAreThoseOfTheTable : Obligations.BusAccessesAreThoseOfTheTable :=
  ⟨rfl, offset_le, rfl, rfl, fun _ => rfl, busDescriptor_toNat, fun _ _ hstep e he =>
    (step_records_allowed hstep he).imp_right (allowed_iff e).mp⟩

end Sys2Proof.Machine
end

section
/-! PROOFS. The state family (10_state.md): what a step does to the block, said once over `StepResult`, and from it the
parameters, the latched request, the selection and the port. -/

namespace Sys2Proof.Machine

/-! ## What a step does to the block -/

/-- `s1` has the parameters, the block and the responses of `s`. -/
structure SameBlock (s s1 : State) : Prop where
  params : s1.params = s.params
  blk : s1.blk = s.blk
  responses : s1.responses = s.responses

/-- Everything a step can do to the block (R150, R151): nothing, an acceptance in `IDLE`, a row of R167 outside it, or
reset. The agents other than the block are all in `still`. -/
inductive BlockStep (s : State) : State → Prop where
  | still (t : State) (hsame : SameBlock s t) (htrace : t.trace = s.trace) : BlockStep s t
  | rejects (s1 : State) (hsame : SameBlock s s1) (htrace : s1.trace = s.trace) (hidle : s.blk.phase = .idle) :
      BlockStep s (s1.reject .illegalRequest)
  | accepts (s1 t : State) (r : Request) (i : Instr) (hsame : SameBlock s s1) (htrace : s1.trace = s.trace)
      (hidle : s.blk.phase = .idle) (hport : s.port = r :: s1.port) (hdecode : decode (.req r) = .ok i)
      (haccept : AcceptResult s1 i t) : BlockStep s t
  | busy (e : Event) (s1 t : State) (hsame : SameBlock s s1) (htrace : s1.trace = e :: s.trace)
      (hbusy : s.blk.phase ≠ .idle) (hresult : BusyResult s1 e t) : BlockStep s t
  | resets (s1 : State) (more : List Input) (hsame : SameBlock s s1) (htrace : s1.trace = s.trace)
      (hinputs : s.inputs = .reset :: more) : BlockStep s s1.blockReset

theorem blockTurn_sameBlock {s s0 : State} (h : s.blockTurn s0) : SameBlock s s0 := by
  obtain ⟨hblk, -, hparams, hresponses, -⟩ := blockTurn_keeps h
  exact ⟨hparams, hblk, hresponses⟩

theorem deviceTurn_sameBlock {s s0 : State} (h : s.deviceTurn s0) : SameBlock s s0 := by
  obtain ⟨more, -, rfl⟩ := h
  exact ⟨rfl, rfl, rfl⟩

theorem sameBlock_setPort {s s0 : State} (h : SameBlock s s0) (port : List Request) :
    SameBlock s { s0 with port := port } := ⟨h.params, h.blk, h.responses⟩

theorem step_blockStep {s t : State} (h : step s = .next t) : BlockStep s t := by
  cases step_result h with
  | waits _ hturn => exact .still _ (blockTurn_sameBlock hturn) (blockTurn_trace hturn)
  | rejects s0 r rest e hturn hidle =>
    have hkept := blockTurn_trace hturn
    exact .rejects { s0 with port := rest } (sameBlock_setPort (blockTurn_sameBlock hturn) rest) hkept hidle
  | accepts s0 _ r rest i hturn hidle hport hdecode haccept =>
    have hkept := blockTurn_trace hturn
    exact .accepts _ _ r i (sameBlock_setPort (blockTurn_sameBlock hturn) rest) hkept hidle hport hdecode haccept
  | busy s0 _ hturn hbusy hstep =>
    obtain ⟨e, s1, htxn, -, hresult⟩ := hstep
    obtain ⟨hparams, hblk, hresponses⟩ := blockTurn_sameBlock hturn
    exact .busy e s1 _ ⟨htxn.params.trans hparams, htxn.blk.trans hblk, htxn.responses.trans hresponses⟩
      (htxn.trace.trans (by rw [blockTurn_trace hturn])) hbusy hresult
  | device s0 d env fresh hturn =>
    obtain ⟨hparams, hblk, hresponses⟩ := deviceTurn_sameBlock hturn
    have hkept := deviceTurn_trace hturn
    exact .still _ ⟨hparams, hblk, hresponses⟩ hkept
  | changes => exact .still _ ⟨rfl, rfl, rfl⟩ rfl
  | offers => exact .still _ ⟨rfl, rfl, rfl⟩ rfl
  | resets more hinputs => exact .resets { s with inputs := more } more ⟨rfl, rfl, rfl⟩ rfl hinputs

/-! ## The parameters (R39) -/

theorem acceptResult_params {s1 t : State} {i : Instr} (h : AcceptResult s1 i t) : t.params = s1.params := by
  cases h <;> rfl

theorem step_params {s t : State} (h : step s = .next t) : t.params = s.params := by
  cases step_blockStep h with
  | still _ hsame => exact hsame.params
  | rejects _ hsame => exact hsame.params
  | accepts _ _ _ _ hsame _ _ _ _ haccept => exact (acceptResult_params haccept).trans hsame.params
  | busy _ _ _ hsame _ _ hresult => exact (busyResult_keeps hresult).2.trans hsame.params
  | resets _ _ hsame => exact hsame.params

/-- Settles O38: no case of `BlockStep` writes a parameter. -/
theorem parametersNeverChange : Obligations.ParametersNeverChange := fun _ _ => step_params

/-! ## The latched request (R33) -/

/-- `b'` holds the latched fields of `b`. -/
def Block.sameLatch (b b' : Block) : Prop := b'.op = b.op ∧ b'.addr = b.addr ∧ b'.data = b.data ∧ b'.dev = b.dev

theorem Block.sameLatch_of_eq {b b' : Block} (h : b' = b) : b.sameLatch b' := by
  subst h; exact ⟨rfl, rfl, rfl, rfl⟩

/-- No phase rule writes a latched field. -/
theorem busyResult_sameLatch {s1 t : State} {e : Event} (h : BusyResult s1 e t) : s1.blk.sameLatch t.blk := by
  cases h <;> exact ⟨rfl, rfl, rfl, rfl⟩

theorem dieOfId_ne_three {dev : BitVec 2} {die : Die} (h : dieOfId dev = some die) : dev ≠ 3 := by
  rintro rfl
  cases h

/-- An accepted operation ends at once and keeps the latch, or is a VREAD, a VWRITE or a SELECT of a die, and the block is
busy with it. -/
theorem acceptResult_latch {s1 t : State} {i : Instr} (h : AcceptResult s1 i t) : s1.blk.sameLatch t.blk ∨
    (t.blk.phase ≠ .idle ∧ ((∃ a, i = .vread a) ∨ (∃ a d, i = .vwrite a d) ∨ ∃ d, i = .select d ∧ d ≠ 3)) := by
  cases h with
  | vread a => exact .inr ⟨nofun, .inl ⟨a, rfl⟩⟩
  | vwrite a d => exact .inr ⟨nofun, .inr (.inl ⟨a, d, rfl⟩)⟩
  | select dev die hdie => exact .inr ⟨nofun, .inr (.inr ⟨dev, rfl, dieOfId_ne_three hdie⟩)⟩
  | noDie => exact .inl ⟨rfl, rfl, rfl, rfl⟩
  | fdec => exact .inl ⟨rfl, rfl, rfl, rfl⟩
  | perm => exact .inl ⟨rfl, rfl, rfl, rfl⟩

theorem acceptResult_port {s1 t : State} {i : Instr} (h : AcceptResult s1 i t) : t.port = s1.port := by
  cases h <;> rfl

/-- Settles O40: of the cases of `BlockStep` only an acceptance and reset write the latch. -/
theorem latchIsWrittenAtAcceptance : Obligations.LatchIsWrittenAtAcceptance := by
  intro s t h
  cases step_blockStep h with
  | still _ hsame => exact .inl (Block.sameLatch_of_eq hsame.blk)
  | rejects s1 hsame =>
    have hkept : s1.blk.sameLatch (s1.reject .illegalRequest).blk := ⟨rfl, rfl, rfl, rfl⟩
    exact .inl (hsame.blk ▸ hkept)
  | accepts s1 _ r i hsame _ hidle hport hdecode haccept =>
    obtain hkept | ⟨hbusy, hop⟩ := acceptResult_latch haccept
    · exact .inl (hsame.blk ▸ hkept)
    · exact .inr (.inr ⟨hidle, hbusy, r, s1.port, i, hport, acceptResult_port haccept, hdecode, hop⟩)
  | busy _ s1 _ hsame _ _ hresult => exact .inl (hsame.blk ▸ busyResult_sameLatch hresult)
  | resets _ more _ _ hinputs => exact .inr (.inl ⟨more, hinputs⟩)

/-! ## The port (R32, R40) -/

theorem busy_iff (b : Block) : b.busy = true ↔ b.phase ≠ .idle := by simp [Block.busy]

theorem ready_iff (b : Block) : b.ready = true ↔ b.phase = .idle := by simp [Block.ready, Block.busy]

theorem busyResult_port {s1 t : State} {e : Event} (h : BusyResult s1 e t) : t.port = s1.port := by
  cases h <;> rfl

theorem busyStep_port {s0 t : State} (h : BusyStep s0 t) : t.port = s0.port := by
  obtain ⟨e, s1, htxn, -, hresult⟩ := h
  exact (busyResult_port hresult).trans htxn.port

/-- While the block is busy a step leaves the port alone, or it is the requester's offer of one more request. -/
theorem step_port_of_busy {s t : State} (hbusy : s.blk.phase ≠ .idle) (h : step s = .next t) :
    t.port = s.port ∨ ∃ r more, s.inputs = .offer r :: more ∧ t.port = s.port ++ [r] := by
  cases step_result h with
  | waits _ _ hidle => exact absurd hidle hbusy
  | rejects _ _ _ _ _ hidle => exact absurd hidle hbusy
  | accepts _ _ _ _ _ _ hidle => exact absurd hidle hbusy
  | busy s0 _ hturn _ hstep =>
    obtain ⟨-, hport, -⟩ := blockTurn_keeps hturn
    exact .inl ((busyStep_port hstep).trans hport)
  | device _ _ _ _ hturn =>
    obtain ⟨more, -, rfl⟩ := hturn
    exact .inl rfl
  | changes => exact .inl rfl
  | offers r more hinputs => exact .inr ⟨r, more, hinputs, rfl⟩
  | resets => exact .inl rfl

theorem execSelect_busy {s : State} (hbusy : s.blk.phase ≠ .idle) (dev : BitVec 2) : execSelect dev s = .next s := by
  rw [execSelect, accept_busy hbusy]

/-- Settles O12: `step_port_of_busy`, and every operation's acceptance is `accept_busy`. -/
theorem busyBlockHoldsRequests : Obligations.BusyBlockHoldsRequests :=
  ⟨fun b => ⟨ready_iff b, busy_iff b⟩, fun _ _ => step_port_of_busy, fun _ hbusy =>
    ⟨fun _ => accept_busy hbusy _, fun _ _ => accept_busy hbusy _, execSelect_busy hbusy,
      fun _ => accept_busy hbusy _, fun _ => accept_busy hbusy _⟩⟩

end Sys2Proof.Machine
end

section
/-! PROOFS. The invariant: one part at a time over `BlockStep`, then all of it (R33, R34, R36, R179, R180, R271 to R277). -/

namespace Sys2Proof.Machine

/-! ## The poll count (R34) -/

/-- What a step does to `S.pcnt`. Only `counts` leaves it at a value that is neither 0 nor the old one. -/
inductive PollCountStep (s t : State) : Prop where
  | keeps (hphase : t.blk.phase = s.blk.phase) (hpcnt : t.blk.pcnt = s.blk.pcnt) (htrace : t.trace = s.trace)
  | zeroes (hphase : t.blk.phase ≠ s.blk.phase) (hpcnt : t.blk.pcnt = 0)
  | passes (hphase : t.blk.phase ≠ s.blk.phase) (hfrom : s.blk.phase.isPolling = false)
      (hto : t.blk.phase.isPolling = false) (hpcnt : t.blk.pcnt = s.blk.pcnt)
  | counts (hphase : t.blk.phase = s.blk.phase) (hpolling : s.blk.phase.isPolling = true)
      (hlimit : s.params.pollLimit ≠ .reads (s.blk.pcnt + 1)) (hpcnt : t.blk.pcnt = s.blk.pcnt + 1)
      (htrace : t.trace ≠ s.trace)

theorem PollLoop.isPolling {p next : Phase} {f : Byte → Bool} {c : RespCode} (h : PollLoop p f next c) :
    p.isPolling = true := by cases h <;> rfl

theorem PollLoop.next_ne {p next : Phase} {f : Byte → Bool} {c : RespCode} (h : PollLoop p f next c) : next ≠ p := by
  cases h <;> decide

theorem Block.pcnt_of_idle {limit : PollLimit} {b : Block} (h : b.pollsOk limit = true)
    (hidle : b.phase = .idle) : b.pcnt = 0 := by
  simpa [Block.pollsOk, hidle, Phase.isPolling] using h

/-- A row of R167 leaves the phase with `S.pcnt` 0, goes on to `RD_STALE_DISCARD`, or counts a failed poll. -/
theorem busyResult_pollCount {s s1 t : State} {e : Event} (hsame : SameBlock s s1) (htrace : s1.trace = e :: s.trace)
    (hbusy : s.blk.phase ≠ .idle) (h : BusyResult s1 e t) : PollCountStep s t := by
  obtain ⟨hparams, hblk, -⟩ := hsame
  rw [← hblk] at hbusy
  cases h with
  | failed => exact .zeroes (hblk ▸ hbusy.symm) rfl
  | stale _ hp => exact .passes (by simp [← hblk, hp]) (by simp [← hblk, hp, Phase.isPolling]) rfl (by simp [hblk])
  | clean _ hp => exact .zeroes (by simp [← hblk, hp]) rfl
  | ready _ _ _ _ hp => exact .zeroes (hblk ▸ hp.next_ne) rfl
  | timeout => exact .zeroes (hblk ▸ hbusy.symm) rfl
  | retry _ _ _ _ hp _ hn =>
    refine .counts (by simp [hblk]) (hblk ▸ hp.isPolling) (hblk ▸ hparams ▸ hn) (by simp [hblk]) fun heq => ?_
    have hlen := congrArg List.length heq
    simp only [State.emit_trace, State.setBlk_trace, htrace, List.length_cons] at hlen
    omega
  | discarded _ hp => exact .zeroes (by simp [← hblk, hp]) rfl
  | readSent _ hp => exact .zeroes (by simp [← hblk, hp]) rfl
  | writeSent _ hp => exact .zeroes (by simp [← hblk, hp]) rfl
  | fetched => exact .zeroes (hblk ▸ hbusy.symm) rfl
  | written => exact .zeroes (hblk ▸ hbusy.symm) rfl

theorem acceptResult_pollCount {s s1 t : State} {i : Instr} (hsame : SameBlock s s1) (htrace : s1.trace = s.trace)
    (hidle : s.blk.phase = .idle) (h : AcceptResult s1 i t) : PollCountStep s t := by
  obtain ⟨-, hblk, -⟩ := hsame
  cases h with
  | vread => exact .passes (by simp [hidle]) (by simp [hidle, Phase.isPolling]) rfl (by simp [hblk])
  | vwrite => exact .zeroes (by simp [hidle]) rfl
  | select => exact .zeroes (by simp [hidle]) rfl
  | noDie => exact .keeps (by simp [hblk]) (by simp [hblk]) htrace
  | fdec => exact .keeps (by simp [hblk]) (by simp [hblk]) htrace
  | perm => exact .keeps (by simp [hblk]) (by simp [hblk]) htrace

theorem step_pollCount {s t : State} (hok : s.blk.pollsOk s.params.pollLimit = true) (h : step s = .next t) :
    PollCountStep s t := by
  cases step_blockStep h with
  | still _ hsame htrace => exact .keeps (by rw [hsame.blk]) (by rw [hsame.blk]) htrace
  | rejects _ hsame htrace => exact .keeps (by simp [hsame.blk]) (by simp [hsame.blk]) htrace
  | accepts _ _ _ _ hsame htrace hidle _ _ haccept => exact acceptResult_pollCount hsame htrace hidle haccept
  | busy _ _ _ hsame htrace hbusy hresult => exact busyResult_pollCount hsame htrace hbusy hresult
  | resets _ _ _ htrace =>
    by_cases hidle : s.blk.phase = .idle
    · exact .keeps hidle.symm (Block.pcnt_of_idle hok hidle).symm htrace
    · exact .zeroes (Ne.symm hidle) rfl

/-- A count of 0 is below any bound that R10 allows. -/
theorem Block.pollsOk_of_zero {p : Params} {b : Block} (hp : p.wf = true) (hb : b.pcnt = 0) :
    b.pollsOk p.pollLimit = true := by
  cases hl : p.pollLimit <;> simp_all [Block.pollsOk, Params.wf]
  omega

theorem pollCountStep_pollsOk {s t : State} (hwf : s.params.wf = true)
    (hok : s.blk.pollsOk s.params.pollLimit = true) (h : PollCountStep s t) :
    t.blk.pollsOk s.params.pollLimit = true := by
  cases h with
  | keeps hphase hpcnt => simpa [Block.pollsOk, hphase, hpcnt] using hok
  | zeroes _ hpcnt => exact Block.pollsOk_of_zero hwf hpcnt
  | passes _ hfrom hto hpcnt => simpa [Block.pollsOk, hfrom, hto, hpcnt] using hok
  | counts hphase hpolling hlimit hpcnt =>
    cases hl : s.params.pollLimit with
    | inf => simp [Block.pollsOk, hphase, hpolling]
    | reads n =>
      simp only [hl, Block.pollsOk, hpolling, hphase, hpcnt, if_true, decide_eq_true_eq, ne_eq,
        PollLimit.reads.injEq] at hok hlimit ⊢
      omega

theorem step_pollsOk {s t : State} (hwf : s.params.wf = true) (hok : s.blk.pollsOk s.params.pollLimit = true)
    (h : step s = .next t) : t.blk.pollsOk t.params.pollLimit = true := by
  rw [step_params h]
  exact pollCountStep_pollsOk hwf hok (step_pollCount hok h)

/-- Settles O49: every clause is read off the case of `PollCountStep`. -/
theorem pollCountStaysBelowTheLimit : Obligations.PollCountStaysBelowTheLimit := by
  intro s t hwf hok h
  refine ⟨step_pollsOk hwf hok h, ?_⟩
  cases step_pollCount hok h with
  | keeps hphase hpcnt htrace =>
    exact ⟨.inr (.inl hpcnt), fun _ _ hne => absurd htrace hne, fun _ hne => absurd hphase hne, fun _ _ => hpcnt⟩
  | zeroes hphase hpcnt =>
    exact ⟨.inl hpcnt, fun _ heq => absurd heq hphase, fun _ _ => hpcnt, fun heq => absurd heq hphase⟩
  | passes hphase _ hto hpcnt =>
    exact ⟨.inr (.inl hpcnt), fun _ heq => absurd heq hphase, fun hpolls => by simp [hto] at hpolls,
      fun heq => absurd heq hphase⟩
  | counts hphase hpolling _ hpcnt htrace =>
    exact ⟨.inr (.inr ⟨hpolling, hphase, hpcnt⟩), fun _ _ _ => hpcnt, fun _ hne => absurd hphase hne,
      fun _ heq => absurd heq htrace⟩

/-! ## The latched request of a busy block (R33) -/

theorem Block.latchOk_of_idle {codes : DevCodes} {b : Block} (h : b.phase = .idle) : b.latchOk codes = true := by
  simp [Block.latchOk, h]

/-- The latch serves every phase of its own handshake. -/
theorem Block.latchOk_of_sameLatch {codes : DevCodes} {b b' : Block} (hb : b.phase ≠ .idle) (hlatch : b.sameLatch b')
    (hread : b'.phase.isRead = b.phase.isRead) (hok : b.latchOk codes = true) : b'.latchOk codes = true := by
  obtain ⟨hop, haddr, hdata, hdev⟩ := hlatch
  by_cases hb' : b'.phase = .idle
  · exact latchOk_of_idle hb'
  · simpa [Block.latchOk, hb, hb', hop, haddr, hdata, hdev, hread] using hok

theorem PollLoop.isRead_eq {p next : Phase} {f : Byte → Bool} {c : RespCode} (h : PollLoop p f next c) :
    next.isRead = p.isRead := by cases h <;> rfl

/-- A row of R167 ends the operation or stays in its handshake. -/
theorem busyResult_handshake {s1 t : State} {e : Event} (h : BusyResult s1 e t) :
    t.blk.phase = .idle ∨ t.blk.phase.isRead = s1.blk.phase.isRead := by
  cases h with
  | failed => exact .inl rfl
  | stale _ hp => exact .inr (by rw [hp]; rfl)
  | clean _ hp => exact .inr (by rw [hp]; rfl)
  | ready _ _ _ _ hp => exact .inr hp.isRead_eq
  | timeout => exact .inl rfl
  | retry => exact .inr rfl
  | discarded _ hp => exact .inr (by rw [hp]; rfl)
  | readSent _ hp => exact .inr (by rw [hp]; rfl)
  | writeSent _ hp => exact .inr (by rw [hp]; rfl)
  | fetched => exact .inl rfl
  | written => exact .inl rfl

theorem busyResult_latchOk {s1 t : State} {e : Event} {codes : DevCodes} (hbusy : s1.blk.phase ≠ .idle)
    (hok : s1.blk.latchOk codes = true) (h : BusyResult s1 e t) : t.blk.latchOk codes = true := by
  obtain hidle | hread := busyResult_handshake h
  · exact Block.latchOk_of_idle hidle
  · exact Block.latchOk_of_sameLatch hbusy (busyResult_sameLatch h) hread hok

/-- An accepted operation latches what its phases read, or ends in `IDLE`. -/
theorem acceptResult_latchOk {s1 t : State} {i : Instr} (hidle : s1.blk.phase = .idle) (h : AcceptResult s1 i t) :
    t.blk.latchOk s1.params.devCode = true := by
  cases h with
  | vread => rfl
  | vwrite => rfl
  | select dev die hdie => simp [Block.latchOk, Phase.isRead, hdie]
  | noDie => exact Block.latchOk_of_idle hidle
  | fdec => exact Block.latchOk_of_idle hidle
  | perm => exact Block.latchOk_of_idle hidle

theorem step_latchOk {s t : State} (hok : s.blk.latchOk s.params.devCode = true) (h : step s = .next t) :
    t.blk.latchOk t.params.devCode = true := by
  rw [step_params h]
  cases step_blockStep h with
  | still _ hsame => exact hsame.blk ▸ hok
  | rejects _ hsame _ hidle => exact Block.latchOk_of_idle (by simpa [hsame.blk] using hidle)
  | accepts _ _ _ _ hsame _ hidle _ _ haccept =>
    exact hsame.params ▸ acceptResult_latchOk (hsame.blk ▸ hidle) haccept
  | busy _ _ _ hsame _ hbusy hresult => exact busyResult_latchOk (hsame.blk ▸ hbusy) (hsame.blk ▸ hok) hresult
  | resets => exact Block.latchOk_of_idle rfl

/-! ## The bus (R71, R179, R180) -/

/-- The trace's part of `State.busSafe`. -/
def traceSafe (trace : List Event) : Prop :=
  writesFollowReady trace = true ∧ readsFollowValid trace = true ∧ trace.all Event.allowed = true

theorem busSafe_iff (s : State) :
    s.busSafe = true ↔ traceSafe s.trace ∧ phaseFollowsStatus s.blk.phase s.trace = true := by
  simp only [State.busSafe, traceSafe, Bool.and_eq_true, and_assoc]

theorem traceSafe_status (v : Byte) {trace : List Event} (h : traceSafe trace) :
    traceSafe (.rd .status v :: trace) := by
  simpa [traceSafe, writesFollowReady, readsFollowValid, Event.allowed] using h

theorem traceSafe_dly {trace : List Event} (h : traceSafe trace) : traceSafe (.dly :: trace) := by
  simpa [traceSafe, writesFollowReady, readsFollowValid, Event.allowed] using h

theorem traceSafe_terr {r : BusReg} {d : Dir} {info : TErr} (he : (Event.terr r d info).allowed = true)
    {trace : List Event} (h : traceSafe trace) : traceSafe (.terr r d info :: trace) := by
  simpa [traceSafe, writesFollowReady, readsFollowValid, he] using h

theorem readsFollowValid_read (v : Byte) (trace : List Event) :
    readsFollowValid (.rd .read v :: trace) = (lastStatus rxReady trace && readsFollowValid trace) := rfl

theorem writesFollowReady_wr (r : BusReg) (b : Byte) (trace : List Event) :
    writesFollowReady (.wr r b :: trace) = (lastStatus txReady trace && writesFollowReady trace) := rfl

/-- A read of READ is safe right after a status read that shows `RX_VALID` (R180). -/
theorem traceSafe_read (v : Byte) {trace : List Event} (hlast : lastStatus rxReady trace = true) (h : traceSafe trace) :
    traceSafe (.rd .read v :: trace) := by
  obtain ⟨hwrites, hreads, hallowed⟩ := h
  exact ⟨hwrites, by rw [readsFollowValid_read, hlast, hreads]; rfl, hallowed⟩

/-- A write is safe right after a status read that shows `TX_VALID` clear (R179). -/
theorem traceSafe_write (b : Byte) {trace : List Event} (hlast : lastStatus txReady trace = true) (h : traceSafe trace) :
    traceSafe (.wr .write b :: trace) := by
  obtain ⟨hwrites, hreads, hallowed⟩ := h
  exact ⟨by rw [writesFollowReady_wr, hlast, hwrites]; rfl, hreads, hallowed⟩

/-- The transaction a phase makes is safe after the status read the phase follows. -/
theorem busyResult_traceSafe {s1 t : State} {e : Event} {trace : List Event} (hsafe : traceSafe trace)
    (hfollows : phaseFollowsStatus s1.blk.phase trace = true) (h : BusyResult s1 e t) : traceSafe (e :: trace) := by
  cases h with
  | failed _ _ _ he => exact traceSafe_terr he hsafe
  | stale v => exact traceSafe_status v hsafe
  | clean v => exact traceSafe_status v hsafe
  | ready v => exact traceSafe_status v hsafe
  | timeout v => exact traceSafe_status v hsafe
  | retry v => exact traceSafe_status v hsafe
  | discarded v hp => exact traceSafe_read v (by rwa [hp] at hfollows) hsafe
  | readSent b hp => exact traceSafe_write b (by rwa [hp] at hfollows) hsafe
  | writeSent b hp => exact traceSafe_write b (by rwa [hp] at hfollows) hsafe
  | fetched v _ hp => exact traceSafe_read v (by rwa [hp] at hfollows) hsafe
  | written b _ hp => exact traceSafe_write b (by rwa [hp] at hfollows) hsafe

/-- A polling loop's success phase follows the status read that was ready. -/
theorem PollLoop.follows {p next : Phase} {f : Byte → Bool} {c : RespCode} (h : PollLoop p f next c) {v : Byte}
    (hv : f v = true) (trace : List Event) :
    phaseFollowsStatus next (.rd .status v :: trace) = true := by cases h <;> exact hv

theorem PollLoop.follows_any {p next : Phase} {f : Byte → Bool} {c : RespCode} (h : PollLoop p f next c)
    (trace : List Event) : phaseFollowsStatus p trace = true := by cases h <;> rfl

/-- The phase a row of R167 enters may make its transaction. -/
theorem busyResult_follows {s1 t : State} {e : Event} {trace : List Event} (htrace : s1.trace = e :: trace)
    (h : BusyResult s1 e t) : phaseFollowsStatus t.blk.phase t.trace = true := by
  cases h with
  | stale v _ hv => rw [State.goto_trace, htrace]; exact hv
  | ready v _ _ _ hp hv => rw [State.enter_trace, htrace]; exact hp.follows hv trace
  | retry _ _ _ _ hp => exact hp.follows_any _
  | _ => rfl

theorem busyResult_busSafe {s1 t : State} {e : Event} {trace : List Event} (htrace : s1.trace = e :: trace)
    (hsafe : traceSafe trace) (hfollows : phaseFollowsStatus s1.blk.phase trace = true) (h : BusyResult s1 e t) :
    t.busSafe = true := by
  refine (busSafe_iff t).mpr ⟨?_, busyResult_follows htrace h⟩
  have hnow : traceSafe s1.trace := htrace ▸ busyResult_traceSafe hsafe hfollows h
  obtain heq | heq := busyResult_trace h <;> rw [heq]
  · exact hnow
  · exact traceSafe_dly hnow

/-- An accepted operation starts with a status read, or ends in `IDLE`. -/
theorem acceptResult_follows {s1 t : State} {i : Instr} (hidle : s1.blk.phase = .idle) (h : AcceptResult s1 i t)
    (trace : List Event) : phaseFollowsStatus t.blk.phase trace = true := by
  cases h <;> simp [phaseFollowsStatus, hidle]

theorem step_busSafe {s t : State} (hsafe : s.busSafe = true) (h : step s = .next t) : t.busSafe = true := by
  obtain ⟨htraceSafe, hfollows⟩ := (busSafe_iff s).mp hsafe
  cases step_blockStep h with
  | still _ hsame htrace =>
    rw [busSafe_iff, htrace, hsame.blk]
    exact ⟨htraceSafe, hfollows⟩
  | rejects _ hsame htrace =>
    rw [busSafe_iff, State.reject_trace, htrace, State.reject_blk, hsame.blk]
    exact ⟨htraceSafe, hfollows⟩
  | accepts _ _ _ _ hsame htrace hidle _ _ haccept =>
    rw [busSafe_iff, acceptResult_trace haccept, htrace]
    exact ⟨htraceSafe, acceptResult_follows (hsame.blk ▸ hidle) haccept _⟩
  | busy _ _ _ hsame htrace _ hresult => exact busyResult_busSafe htrace htraceSafe (hsame.blk ▸ hfollows) hresult
  | resets _ _ _ htrace =>
    rw [busSafe_iff, State.blockReset_trace, htrace]
    exact ⟨htraceSafe, rfl⟩

/-! ## Records and responses (R36, R41, R271 to R277) -/

/-- From `s1` to `t` no operation ended, or one ended with a legal response, whose record `S.lasterr` is. -/
def RecordStep (limit : PollLimit) (s1 t : State) : Prop :=
  (t.blk.lasterr = s1.blk.lasterr ∧ t.responses = s1.responses) ∨
  ∃ r : Response, t.responses = r :: s1.responses ∧ t.blk.lasterr = r.record ∧ r.legal limit = true

theorem Response.legal_of_record {limit : PollLimit} {le : LastErr} (h : le.legal limit = true) :
    Response.legal limit ⟨le.code, none, none, none, le.phase, le.polls, le.info⟩ = true := by
  simpa [Response.legal, Response.record] using h

theorem okResponse_legal (limit : PollLimit) (rdata : Option Byte) : (okResponse rdata).legal limit = true := by
  cases rdata <;> rfl

/-- A timeout's record: the phase of its loop and `POLL_LIMIT` polls (R272). -/
theorem PollLoop.timeout_legal {p next : Phase} {f : Byte → Bool} {c : RespCode} (h : PollLoop p f next c)
    (n : Nat) : LastErr.legal (.reads n) ⟨c, p, n, none⟩ = true := by cases h <;> simp [LastErr.legal]

/-- A transport failure's record: the polls made in the loop, this one included, and none outside loops (R275). -/
theorem transportError_legal {limit : PollLimit} {b : Block} (hbusy : b.phase ≠ .idle) (hok : b.pollsOk limit = true)
    (info : TErr) : LastErr.legal limit
      ⟨.transportError, b.phase, if b.phase.isPolling then b.pcnt + 1 else 0, some info⟩ = true := by
  cases hpolling : b.phase.isPolling with
  | false => simp [LastErr.legal, hbusy, hpolling]
  | true =>
    cases limit with
    | inf => simp [LastErr.legal, hbusy, hpolling]
    | reads n =>
      have hlt : b.pcnt < n := by simpa [Block.pollsOk, hpolling] using hok
      simp only [LastErr.legal, hpolling, if_true]
      simp [hbusy]
      omega

theorem busyResult_record {s1 t : State} {e : Event} (hbusy : s1.blk.phase ≠ .idle)
    (hok : s1.blk.pollsOk s1.params.pollLimit = true) (h : BusyResult s1 e t) :
    RecordStep s1.params.pollLimit s1 t := by
  cases h with
  | failed _ _ info => exact .inr ⟨_, rfl, rfl, Response.legal_of_record (transportError_legal hbusy hok info)⟩
  | timeout _ _ _ _ hp _ hn =>
    exact .inr ⟨_, rfl, rfl, Response.legal_of_record (hn ▸ hp.timeout_legal (s1.blk.pcnt + 1))⟩
  | fetched v => exact .inr ⟨_, rfl, rfl, okResponse_legal _ (some v)⟩
  | written => exact .inr ⟨_, rfl, rfl, okResponse_legal _ none⟩
  | _ => exact .inl ⟨rfl, rfl⟩

theorem acceptResult_record {s1 t : State} {i : Instr} (limit : PollLimit) (h : AcceptResult s1 i t) :
    RecordStep limit s1 t := by
  cases h with
  | vread => exact .inl ⟨rfl, rfl⟩
  | vwrite => exact .inl ⟨rfl, rfl⟩
  | select => exact .inl ⟨rfl, rfl⟩
  | noDie => exact .inr ⟨_, rfl, rfl, rfl⟩
  | fdec => exact .inr ⟨_, rfl, rfl, rfl⟩
  | perm => exact .inr ⟨_, rfl, rfl, rfl⟩

/-- Reset apart, a step ends no operation or ends one with a legal response. -/
theorem step_record {s t : State} (hok : s.blk.pollsOk s.params.pollLimit = true) (h : step s = .next t) :
    RecordStep s.params.pollLimit s t ∨ (t.blk = Block.reset ∧ t.responses = s.responses) := by
  have from_same : ∀ {s1 : State}, SameBlock s s1 → RecordStep s.params.pollLimit s1 t →
      RecordStep s.params.pollLimit s t := by
    intro s1 hsame hrecord
    rwa [RecordStep, hsame.blk, hsame.responses] at hrecord
  cases step_blockStep h with
  | still _ hsame => exact .inl (.inl ⟨by rw [hsame.blk], hsame.responses⟩)
  | rejects _ hsame => exact .inl (from_same hsame (.inr ⟨_, rfl, rfl, rfl⟩))
  | accepts _ _ _ _ hsame _ _ _ _ haccept => exact .inl (from_same hsame (acceptResult_record _ haccept))
  | busy _ _ _ hsame _ hbusy hresult =>
    rw [← hsame.blk, ← hsame.params] at hok
    exact .inl (from_same hsame (hsame.params ▸ busyResult_record (hsame.blk ▸ hbusy) hok hresult))
  | resets _ _ hsame => exact .inr ⟨rfl, hsame.responses⟩

theorem Response.record_legal {limit : PollLimit} {r : Response} (h : r.legal limit = true) :
    r.record.legal limit = true := by
  rw [Response.legal, Bool.and_eq_true] at h
  exact h.1

theorem step_lasterr_legal {s t : State} (hok : s.blk.pollsOk s.params.pollLimit = true)
    (hlegal : s.blk.lasterr.legal s.params.pollLimit = true) (h : step s = .next t) :
    t.blk.lasterr.legal t.params.pollLimit = true := by
  rw [step_params h]
  obtain (⟨heq, -⟩ | ⟨r, -, heq, hr⟩) | ⟨heq, -⟩ := step_record hok h <;> rw [heq]
  · exact hlegal
  · exact Response.record_legal hr
  · rfl

theorem step_responses_legal {s t : State} (hok : s.blk.pollsOk s.params.pollLimit = true)
    (hlegal : s.responses.all (Response.legal s.params.pollLimit) = true) (h : step s = .next t) :
    t.responses.all (Response.legal t.params.pollLimit) = true := by
  rw [step_params h]
  obtain (⟨-, heq⟩ | ⟨r, heq, -, hr⟩) | ⟨-, heq⟩ := step_record hok h <;> rw [heq]
  · exact hlegal
  · rw [List.all_cons, hr, hlegal]; rfl
  · exact hlegal

/-! ## The device and the inputs -/

theorem acceptResult_keeps {s1 t : State} {i : Instr} (h : AcceptResult s1 i t) :
    t.dev = s1.dev ∧ t.inputs = s1.inputs := by
  cases h <;> exact ⟨rfl, rfl⟩

theorem busyResult_inputs {s1 t : State} {e : Event} (h : BusyResult s1 e t) : t.inputs = s1.inputs := by
  cases h <;> rfl

theorem blockTurn_inputs {s s0 : State} (h : s.blockTurn s0) :
    s0.inputs = s.inputs ∨ ∃ i, s.inputs = i :: s0.inputs := by
  obtain ⟨-, rfl⟩ | ⟨more, hinputs, rfl⟩ := h
  · exact .inl rfl
  · exact .inr ⟨_, hinputs⟩

/-- A step leaves the inputs alone or uses up the first of them. -/
theorem step_inputs {s t : State} (h : step s = .next t) : t.inputs = s.inputs ∨ ∃ i, s.inputs = i :: t.inputs := by
  cases step_result h with
  | waits _ hturn => exact blockTurn_inputs hturn
  | rejects _ _ _ _ hturn =>
    have hkept := blockTurn_inputs hturn
    exact hkept
  | accepts _ _ _ _ _ hturn _ _ _ haccept =>
    have hkept := blockTurn_inputs hturn
    rwa [(acceptResult_keeps haccept).2]
  | busy _ _ hturn _ hstep =>
    obtain ⟨e, s1, htxn, -, hresult⟩ := hstep
    rw [busyResult_inputs hresult, htxn.inputs]
    exact blockTurn_inputs hturn
  | device _ _ _ _ hturn =>
    obtain ⟨more, hinputs, rfl⟩ := hturn
    exact .inr ⟨_, hinputs⟩
  | changes _ _ hinputs => exact .inr ⟨_, hinputs⟩
  | offers _ _ hinputs => exact .inr ⟨_, hinputs⟩
  | resets _ hinputs => exact .inr ⟨_, hinputs⟩

theorem step_inputs_wf {s t : State} (hwf : s.inputs.all Input.wf = true) (h : step s = .next t) :
    t.inputs.all Input.wf = true := by
  obtain heq | ⟨i, heq⟩ := step_inputs h
  · rwa [heq]
  · rw [heq, List.all_cons, Bool.and_eq_true] at hwf
    exact hwf.2

theorem blockTurn_dev {s s0 : State} (h : s.blockTurn s0) : s0.dev = s.dev := by
  obtain ⟨-, -, -, -, -, -, -, hdev, -⟩ := blockTurn_keeps h
  exact hdev

/-- The register files stay in canonical form: a step stores by `StoreFrame`, or an input brings the new device. -/
theorem step_device_wf {s t : State} (hwf : s.dev.wf = true) (hinputs : s.inputs.all Input.wf = true)
    (h : step s = .next t) : t.dev.wf = true := by
  cases step_result h with
  | waits _ hturn => rwa [blockTurn_dev hturn]
  | rejects _ _ _ _ hturn =>
    rw [← blockTurn_dev hturn] at hwf
    exact hwf
  | accepts _ _ _ _ _ hturn _ _ _ haccept =>
    rw [← blockTurn_dev hturn] at hwf
    rwa [(acceptResult_keeps haccept).1]
  | busy _ _ hturn _ hstep =>
    obtain ⟨e, s1, -, hstore, hresult⟩ := hstep
    rw [← blockTurn_dev hturn] at hwf
    rw [(busyResult_keeps hresult).1]
    exact hstore.wf hwf
  | device _ _ _ _ hturn hstore =>
    obtain ⟨more, -, rfl⟩ := hturn
    exact hstore.wf hwf
  | changes d _ hin =>
    rw [hin, List.all_cons, Bool.and_eq_true] at hinputs
    exact hinputs.1
  | offers => exact hwf
  | resets => exact hwf

/-! ## The whole invariant -/

/-- Settles O47: each part by its own lemma over the step. -/
theorem stepKeepsTheInvariant : Obligations.StepKeepsTheInvariant := fun _ _ hinv h =>
  { params := step_params h ▸ hinv.params
    latch := step_latchOk hinv.latch h
    polls := step_pollsOk hinv.params hinv.polls h
    bus := step_busSafe hinv.bus h
    lasterr := step_lasterr_legal hinv.polls hinv.lasterr h
    responses := step_responses_legal hinv.polls hinv.responses h
    device := step_device_wf hinv.device hinv.inputs h
    inputs := step_inputs_wf hinv.inputs h }

/-- The open parameters take values R10 allows: a finite `POLL_LIMIT` is one more than a budget. -/
theorem params_wf : Config.params.wf = true := by
  simp only [Params.wf, Config.params]
  cases Config.pollBudget <;> simp

/-- Settles O46: the open parameters are legal, and the rest of the state is in `IDLE` with nothing done. -/
theorem resetMeetsTheInvariant : Obligations.ResetMeetsTheInvariant :=
  { params := params_wf
    latch := rfl
    polls := rfl
    bus := rfl
    lasterr := rfl
    responses := rfl
    device := rfl
    inputs := rfl }

end Sys2Proof.Machine
end

section
/-! PROOFS. Progress (R33, R150): under the invariant every move answers a next state; and the transaction of each phase
(R31). -/

namespace Sys2Proof.Machine

/-! ## The transaction of the phase (R31) -/

theorem blockMove_status {s : State} (hp : s.blk.phase = .rdStaleStat ∨ s.blk.phase = .rdPollTx ∨
    s.blk.phase = .rdPollRx ∨ s.blk.phase = .wrPollTx1 ∨ s.blk.phase = .wrPollTx2) :
    blockMove s = .run .busRdStatus s := by
  obtain hp | hp | hp | hp | hp := hp <;> simp only [blockMove, hp]

theorem blockMove_read {s : State} (hp : s.blk.phase = .rdStaleDiscard ∨ s.blk.phase = .rdFetch) :
    blockMove s = .run .busRdRead s := by
  obtain hp | hp := hp <;> simp only [blockMove, hp]

theorem blockMove_rdCmd {s : State} {a : VAddr} (hp : s.blk.phase = .rdCmd) (ha : s.blk.addr = some a) :
    blockMove s = .run (.busWrWrite (cmdByte false a)) s := by
  simp only [blockMove, hp, ha, Option.map_some, writeMove]

theorem blockMove_wrCmd {s : State} {a : VAddr} (hp : s.blk.phase = .wrCmd) (ha : s.blk.addr = some a) :
    blockMove s = .run (.busWrWrite (cmdByte true a)) s := by
  simp only [blockMove, hp, ha, Option.map_some, writeMove]

theorem blockMove_wrData {s : State} {d : Byte} (hp : s.blk.phase = .wrData) (hd : s.blk.data = some d) :
    blockMove s = .run (.busWrWrite d) s := by
  simp only [blockMove, hp, hd, writeMove]

theorem phase_code_le (p : Phase) : p.code.toNat ≤ 10 := by
  cases p <;> decide

/-- Settles O9: the block's turn is `blockMove`, phase by phase. -/
theorem stepRunsTheTransactionOfThePhase : Obligations.StepRunsTheTransactionOfThePhase := by
  refine ⟨fun s s0 hturn => ?_, rfl, phase_code_le, rfl⟩
  obtain ⟨hblk, -⟩ := blockTurn_keeps hturn
  rw [step_blockTurn hturn, ← hblk]
  refine ⟨fun hp => ?_, fun hp => ?_, fun a hp ha => ?_, fun a hp ha => ?_, fun d hp hd => ?_⟩
  · rw [blockMove_status hp]; rfl
  · rw [blockMove_read hp]; rfl
  · rw [blockMove_rdCmd hp ha]; rfl
  · rw [blockMove_wrCmd hp ha]; rfl
  · rw [blockMove_wrData hp hd]; rfl

/-! ## Every move answers -/

/-- The outcome is a next state. -/
def Answers (o : Host.Outcome State Fault Refusal) : Prop := ∃ t, o = .next t

theorem answers_next (t : State) : Answers (.next t) := ⟨t, rfl⟩

/-- What a legal latch gives a busy block: an address, a completion, and in a write handshake a payload. -/
theorem latchOk_serves {codes : DevCodes} {b : Block} (hbusy : b.phase ≠ .idle) (hok : b.latchOk codes = true) :
    (∃ a, b.addr = some a) ∧ (∃ sel, b.completionSel = .ok sel) ∧
      (b.phase.isRead = false → ∃ d, b.data = some d) := by
  simp only [Block.latchOk, hbusy, if_false] at hok
  cases hread : b.phase.isRead with
  | true =>
    simp only [hread, if_true, Bool.and_eq_true, decide_eq_true_eq] at hok
    obtain ⟨hop, haddr⟩ := hok
    exact ⟨Option.isSome_iff_exists.mp haddr, ⟨b.sel, by rw [Block.completionSel, hop]⟩, nofun⟩
  | false =>
    simp only [hread, Bool.false_eq_true, if_false] at hok
    rcases hop : b.op with _ | _ | _ | _ <;> simp only [hop, Bool.false_eq_true] at hok
    case some.vwrite =>
      simp only [Bool.and_eq_true, Option.isSome_iff_exists] at hok
      obtain ⟨⟨a, haddr⟩, hdata⟩ := hok
      exact ⟨⟨a, haddr⟩, ⟨_, by rw [Block.completionSel, hop, haddr]⟩, fun _ => hdata⟩
    case some.select =>
      rcases hdev : b.dev with _ | dev <;> simp only [hdev, Bool.false_eq_true] at hok
      rcases hdie : dieOfId dev with _ | die <;>
        simp only [hdie, Bool.false_eq_true, Bool.and_eq_true, decide_eq_true_eq] at hok
      obtain ⟨haddr, hdata⟩ := hok
      exact ⟨⟨_, haddr⟩, ⟨dev, by rw [Block.completionSel, hop, hdev]⟩, fun _ => ⟨_, hdata⟩⟩

theorem afterRead_answers {s : State} (hsel : ∃ sel, s.blk.completionSel = .ok sel) (ans : BusAnswer) :
    Answers (s.afterRead ans) := by
  obtain ⟨sel, hsel⟩ := hsel
  unfold State.afterRead
  split
  case h_2 =>
    cases ans with
    | err info reached => exact answers_next _
    | ok v => exact ⟨_, complete_of_ok hsel⟩
  all_goals exact answers_next _

theorem afterWrite_answers {s : State} (hsel : ∃ sel, s.blk.completionSel = .ok sel) (ans : BusAnswer) :
    Answers (s.afterWrite ans) := by
  obtain ⟨sel, hsel⟩ := hsel
  unfold State.afterWrite
  split
  case h_3 =>
    cases ans with
    | err info reached => exact answers_next _
    | ok v => exact ⟨_, complete_of_ok hsel⟩
  all_goals exact answers_next _

theorem accept_answers (clause : State → State) (s : State) : Answers (s.accept clause) := by
  unfold State.accept
  split <;> exact answers_next _

/-- The five operations answer whatever the state. -/
theorem exec_req_answers {r : Request} {i : Instr} (h : decode (.req r) = .ok i) (s : State) : Answers (exec i s) := by
  obtain ⟨a, rfl⟩ | ⟨a, d, rfl⟩ | ⟨dev, rfl⟩ | ⟨b, rfl⟩ | ⟨v, rfl⟩ := decode_req_ops h
  · exact accept_answers _ s
  · exact accept_answers _ s
  · rw [exec, execSelect]
    exact accept_answers _ s
  · exact accept_answers _ s
  · exact accept_answers _ s

theorem acceptMove_answers (s : State) : Answers (runMove (acceptMove s)) := by
  unfold acceptMove
  split
  · exact answers_next _
  · split
    · exact exec_req_answers ‹_› _
    · exact answers_next _

/-- With a legal latch the block's move answers: no phase reads an absent field (R33). -/
theorem blockMove_answers {s : State} (hok : s.blk.latchOk s.params.devCode = true) :
    Answers (runMove (blockMove s)) := by
  by_cases hidle : s.blk.phase = .idle
  · rw [blockMove, hidle]
    exact acceptMove_answers s
  obtain ⟨⟨a, haddr⟩, hsel, hdata⟩ := latchOk_serves hidle hok
  have write : ∀ b, Answers (exec (.busWrWrite b) s) := fun b =>
    afterWrite_answers (by rwa [(busWrite_effect b s).blk]) _
  have read : Answers (exec .busRdRead s) := afterRead_answers (by rwa [(busReadRead_effect s).blk]) _
  cases hp : s.blk.phase with
  | idle => exact absurd hp hidle
  | rdStaleStat | rdPollTx | rdPollRx | wrPollTx1 | wrPollTx2 =>
    rw [blockMove_status (by simp [hp])]
    exact answers_next _
  | rdStaleDiscard | rdFetch =>
    rw [blockMove_read (by simp [hp])]
    exact read
  | rdCmd => rw [blockMove_rdCmd hp haddr]; exact write _
  | wrCmd => rw [blockMove_wrCmd hp haddr]; exact write _
  | wrData =>
    obtain ⟨d, hd⟩ := hdata (by rw [hp]; rfl)
    rw [blockMove_wrData hp hd]
    exact write _

theorem deviceMove_answers (s : State) : Answers (runMove (deviceMove s)) := by
  unfold deviceMove
  split <;> exact answers_next _

theorem step_answers {s : State} (hok : s.blk.latchOk s.params.devCode = true) : Answers (step s) := by
  unfold step nextMove
  split
  case h_1 => exact blockMove_answers hok
  case h_2 => exact blockMove_answers hok
  case h_3 => exact deviceMove_answers _
  all_goals exact answers_next _

/-- Settles O50: the latch's part of the invariant lets every move answer, and the answer keeps the invariant. -/
theorem nothingStopsUnderTheInvariant : Obligations.NothingStopsUnderTheInvariant := by
  intro s hinv
  obtain ⟨t, h⟩ := step_answers hinv.latch
  exact ⟨t, h, stepKeepsTheInvariant s t hinv h⟩

end Sys2Proof.Machine
end

section
/-! PROOFS. The status words: BLKSTAT (R38), the two STATUS bits the block tests (R47), and the device's answers (R45, R46,
R87, R117). -/

namespace Sys2Proof.Machine

/-! ## BLKSTAT (R38) -/

theorem busy_eq_decide (b : Block) : b.busy = decide (b.phase ≠ .idle) := by
  rw [Bool.eq_iff_iff, busy_iff, decide_eq_true_iff]

/-- R38, field by field: each is reached by dropping the fields below it. -/
theorem blkstat_fields (b : Block) :
    b.blkstat.extractLsb' 0 4 = b.phase.code ∧
    b.blkstat.getLsbD 4 = decide (b.phase ≠ .idle) ∧
    b.blkstat.extractLsb' 5 3 = 0#3 ∧
    b.blkstat.extractLsb' 8 4 = b.lasterr.code.code ∧
    b.blkstat.extractLsb' 12 4 = b.lasterr.phase.code ∧
    b.blkstat.extractLsb' 16 2 = b.sel ∧
    b.blkstat.extractLsb' 18 14 = 0#14 := by
  have hbusy : b.blkstat.getLsbD 4 = b.busy := by
    rw [Block.blkstat, BitVec.getLsbD_append, if_neg (by decide), BitVec.getLsbD_append, if_pos (by decide)]
    cases b.busy <;> rfl
  refine ⟨BitVec.extractLsb'_append_eq_right, hbusy.trans (busy_eq_decide b), ?_, ?_, ?_, ?_, ?_⟩
  all_goals
    simp (disch := decide) only [Block.blkstat, BitVec.extractLsb'_append_eq_of_le,
      BitVec.extractLsb'_append_eq_of_add_le, Nat.reduceSub, BitVec.extractLsb'_eq_self]

theorem respCode_code_le (c : RespCode) : c.code.toNat ≤ 8 := by
  cases c <;> decide

/-- Settles O45: the fields by `blkstat_fields`, the numbers and the reset value by evaluation. -/
theorem blkstatPacksItsFields : Obligations.BlkstatPacksItsFields :=
  ⟨blkstat_fields, rfl, respCode_code_le, by decide⟩

/-! ## The two STATUS bits (R47) -/

theorem pollStep_congr {f : Byte → Bool} {v v' : Byte} (h : f v = f v') (next : Phase) (c : RespCode) (s : State) :
    s.pollStep f next c (.ok v) = s.pollStep f next c (.ok v') := by
  simp only [State.pollStep, h]

theorem phaseStaleStat_congr {v v' : Byte} (h : rxReady v = rxReady v') (s : State) :
    s.phaseStaleStat (.ok v) = s.phaseStaleStat (.ok v') := by
  simp only [State.phaseStaleStat, h]

/-- Settles O29: every phase rule sees the byte through `rxReady` or `txReady`, which are bits 0 and 1. -/
theorem onlyStatusBitsZeroAndOneMatter : Obligations.OnlyStatusBitsZeroAndOneMatter := by
  intro s v v' h0 h1
  have hrx : rxReady v = rxReady v' := h0
  have htx : txReady v = txReady v' := by rw [txReady, h1, txReady]
  unfold State.afterStatus
  split
  · exact phaseStaleStat_congr hrx s
  · exact pollStep_congr htx _ _ s
  · exact pollStep_congr hrx _ _ s
  · exact pollStep_congr htx _ _ s
  · exact pollStep_congr htx _ _ s
  all_goals rfl

/-! ## The device's answers (R45, R46, R87, R117) -/

theorem statusByte_bits (hi : BitVec 6) (tx rx : Bool) : (statusByte hi tx rx).getLsbD 0 = rx ∧
    (statusByte hi tx rx).getLsbD 1 = tx ∧ (statusByte hi tx rx).extractLsb' 2 6 = hi := by
  refine ⟨?_, ?_, ?_⟩
  · rw [statusByte, BitVec.getLsbD_append, if_pos (by decide)]
    cases rx <;> rfl
  · rw [statusByte, BitVec.getLsbD_append, if_neg (by decide), BitVec.getLsbD_append, if_pos (by decide)]
    cases tx <;> rfl
  · simp (disch := decide) only [statusByte, BitVec.extractLsb'_append_eq_of_le, Nat.reduceSub,
      BitVec.extractLsb'_eq_self]

section
variable {s : State} (henv : s.env = .device) (hscript : s.answers = [])
include hscript

theorem nextFailure_none : s.nextFailure = none := by
  rw [State.nextFailure, hscript]

theorem dropAnswer_self : s.dropAnswer = s := by
  rw [State.dropAnswer, hscript, List.tail_nil, ← hscript]

include henv

theorem answerStatus_device : s.answerStatus =
    (.ok (statusByte s.dev.statusHi s.dev.inbound.isSome s.dev.outbound.isSome), s) := by
  simp only [State.answerStatus, henv, nextFailure_none hscript, dropAnswer_self hscript]

theorem answerRead_device {v : Byte} (hout : s.dev.outbound = some v) :
    s.answerRead = (.ok v, (s.setDev { s.dev with outbound := none }).draw.dropAnswer) := by
  simp only [State.answerRead, henv, nextFailure_none hscript, hout, Option.getD_some]

theorem answerWrite_device (b : Byte) : s.answerWrite b = (.ok 0, (s.receive b).dropAnswer) := by
  simp only [State.answerWrite, henv, nextFailure_none hscript]

end

/-- Settles O31: each primitive is its answer of the device, recorded. -/
theorem deviceAnswersFromItsRegisters : Obligations.DeviceAnswersFromItsRegisters := by
  intro s henv hscript
  refine ⟨⟨_, ?_, statusByte_bits _ _ _⟩, fun v hout => ?_, fun b hfree => ⟨0, ?_⟩⟩
  · rw [State.busReadStatus, answerStatus_device henv hscript]; rfl
  · rw [State.busReadRead, answerRead_device henv hscript hout]
    exact ⟨rfl, rfl, rfl⟩
  · have hreceive : s.receive b = s.setDev { s.dev with inbound := some b } := by rw [State.receive, hfree]
    have hkept : (s.setDev { s.dev with inbound := some b }).answers = [] := hscript
    rw [State.busWrite, answerWrite_device henv hscript, hreceive, dropAnswer_self hkept]; rfl

end Sys2Proof.Machine
end

section
/-! PROOFS. `S.sel` (R35): its writers over `BlockStep`, and that it is a record only. -/

namespace Sys2Proof.Machine

/-! ## The writers -/

/-- The completion of a write changes `S.sel` with a SELECT or with a VWRITE of DEVSEL alone (R166, R202, R204). -/
theorem completionSel_cases {b : Block} {sel : BitVec 2} (h : b.completionSel = .ok sel) :
    sel = b.sel ∨ (b.op = some .select ∧ b.dev = some sel) ∨
      (b.op = some .vwrite ∧ b.addr = some devselAddr ∧ sel = selNone) := by
  unfold Block.completionSel at h
  split at h
  · cases h
  · cases h; exact .inl rfl
  · split at h
    · cases h
    · cases h
      split
      · subst_vars; exact .inr (.inr ⟨‹_›, ‹_›, rfl⟩)
      · exact .inl rfl
  · split at h
    · cases h
    · cases h; exact .inr (.inl ⟨‹_›, ‹_›⟩)

/-- The completion of a read keeps `S.sel`: the latch holds a VREAD. -/
theorem completionSel_of_read {codes : DevCodes} {b : Block} {sel : BitVec 2} (hread : b.phase.isRead = true)
    (hok : b.latchOk codes = true) (h : b.completionSel = .ok sel) : sel = b.sel := by
  have hbusy : b.phase ≠ .idle := fun hp => by rw [hp] at hread; cases hread
  have hop : b.op = some .vread := by simp_all [Block.latchOk]
  rw [Block.completionSel, hop] at h
  cases h; rfl

/-- Of the rows of R167 only the payload's completion writes `S.sel`. -/
theorem busyResult_sel {s1 t : State} {e : Event} {codes : DevCodes} (hok : s1.blk.latchOk codes = true)
    (h : BusyResult s1 e t) : t.blk.sel = s1.blk.sel ∨
      (s1.blk.phase = .wrData ∧ t.responses = okResponse none :: s1.responses ∧
        s1.blk.completionSel = .ok t.blk.sel) := by
  cases h with
  | fetched _ sel hp hsel => exact .inl (completionSel_of_read (by rw [hp]; rfl) hok hsel)
  | written _ sel hp hsel => exact .inr ⟨hp, rfl, hsel⟩
  | _ => exact .inl rfl

theorem acceptResult_sel {s1 t : State} {i : Instr} (h : AcceptResult s1 i t) : t.blk.sel = s1.blk.sel := by
  cases h <;> rfl

theorem step_sel {s t : State} (hok : s.blk.latchOk s.params.devCode = true) (h : step s = .next t) :
    t.blk.sel = s.blk.sel ∨
    (∃ more, s.inputs = .reset :: more ∧ t.blk.sel = selNone) ∨
    (s.blk.phase = .wrData ∧ t.responses = okResponse none :: s.responses ∧
      s.blk.completionSel = .ok t.blk.sel) := by
  cases step_blockStep h with
  | still _ hsame => exact .inl (by rw [hsame.blk])
  | rejects _ hsame => exact .inl (by rw [State.reject_blk, hsame.blk])
  | accepts _ _ _ _ hsame _ _ _ _ haccept => exact .inl (by rw [acceptResult_sel haccept, hsame.blk])
  | busy _ s1 _ hsame _ _ hresult =>
    have hsel := busyResult_sel (hsame.blk.symm ▸ hok) hresult
    rw [hsame.blk, hsame.responses] at hsel
    exact hsel.imp_right .inr
  | resets _ more _ _ hinputs => exact .inr (.inl ⟨more, hinputs, rfl⟩)

/-! ## The environment does not see the block -/

theorem oracleAnswer_setBlk (dir : Dir) (r : BusReg) (d : Byte) (b : Block) (s : State) :
    (s.setBlk b).oracleAnswer dir r d = ((s.oracleAnswer dir r d).1, (s.oracleAnswer dir r d).2.setBlk b) := by
  rcases h : s.answers <;> simp only [State.oracleAnswer, State.setBlk_answers, h] <;> rfl

theorem nextFailure_setBlk (b : Block) (s : State) : (s.setBlk b).nextFailure = s.nextFailure := rfl

theorem writeVirtual_setBlk (a : VAddr) (v : Byte) (b : Block) (s : State) :
    (s.setBlk b).writeVirtual a v = (s.writeVirtual a v).setBlk b := by
  have hreaches : (s.setBlk b).reaches a = s.reaches a := rfl
  unfold State.writeVirtual
  rw [hreaches]
  split
  · rfl
  · split <;> rfl

theorem placeByte_setBlk (v : Byte) (b : Block) (s : State) :
    (s.setBlk b).placeByte v = (s.placeByte v).setBlk b := by
  rw [State.placeByte, State.placeByte, apply_ite (State.setBlk b)]; rfl

theorem serveRead_setBlk (a : VAddr) (b : Block) (s : State) :
    (s.setBlk b).serveRead a = (s.serveRead a).setBlk b := by
  have hread : (s.setBlk b).readVirtual a = s.readVirtual a := rfl
  rw [State.serveRead, hread, placeByte_setBlk]; rfl

theorem serveWrite_setBlk (a : VAddr) (v : Byte) (b : Block) (s : State) :
    (s.setBlk b).serveWrite a v = (s.serveWrite a v).setBlk b := by
  rw [State.serveWrite, writeVirtual_setBlk]; rfl

theorem receive_setBlk (v : Byte) (b : Block) (s : State) : (s.setBlk b).receive v = (s.receive v).setBlk b := by
  simp only [State.receive, State.setBlk_dev]
  split <;> rfl

theorem refReceive_setBlk (v : Byte) (b : Block) (s : State) :
    (s.setBlk b).refReceive v = (s.refReceive v).setBlk b := by
  simp only [State.refReceive, State.setBlk_dev, serveWrite_setBlk, serveRead_setBlk]
  split
  · rfl
  all_goals split <;> rfl

theorem answerStatus_setBlk (b : Block) (s : State) :
    (s.setBlk b).answerStatus = (s.answerStatus.1, s.answerStatus.2.setBlk b) := by
  simp only [State.answerStatus, State.setBlk_env, oracleAnswer_setBlk, nextFailure_setBlk]
  split
  · rfl
  · split <;> rfl
  · rfl

theorem answerRead_setBlk (b : Block) (s : State) :
    (s.setBlk b).answerRead = (s.answerRead.1, s.answerRead.2.setBlk b) := by
  simp only [State.answerRead, State.setBlk_env, State.setBlk_dev, oracleAnswer_setBlk, nextFailure_setBlk]
  split
  · rfl
  · split <;> rfl
  · by_cases hrx : s.dev.rxw = 0
    · simp only [hrx, if_true]; rfl
    · simp only [hrx, if_false]

theorem answerWrite_setBlk (v : Byte) (b : Block) (s : State) :
    (s.setBlk b).answerWrite v = ((s.answerWrite v).1, (s.answerWrite v).2.setBlk b) := by
  have horacle : (s.setBlk b).toOracle = s.toOracle.setBlk b := rfl
  simp only [State.answerWrite, State.setBlk_env, State.setBlk_dev, oracleAnswer_setBlk, nextFailure_setBlk,
    receive_setBlk, refReceive_setBlk, horacle]
  split
  · rfl
  · split
    · split <;> rfl
    · rfl
  · split <;> rfl

/-! ## A step from another record -/

/-- `s` with another record of the selection. -/
def State.withSel (x : BitVec 2) (s : State) : State := s.setBlk { s.blk with sel := x }

/-- Where one outcome is a next state the other is the same one but for `S.sel`. -/
def SameButSel (o o' : Host.Outcome State Fault Refusal) : Prop :=
  ∀ t, o = .next t → ∃ y, o' = .next (t.withSel y)

theorem sameButSel_next (y : BitVec 2) (t : State) : SameButSel (.next t) (.next (t.withSel y)) := by
  rintro _ ⟨⟩
  exact ⟨y, rfl⟩

/-- What leaves the block alone and does not see it is the same from another record. -/
theorem withSel_of_setBlk {f : State → State} (hcomm : ∀ b s, f (s.setBlk b) = (f s).setBlk b)
    (hblk : ∀ s, (f s).blk = s.blk) (x : BitVec 2) (s : State) : f (s.withSel x) = (f s).withSel x := by
  rw [State.withSel, hcomm, State.withSel, hblk]

theorem busReadStatus_withSel (x : BitVec 2) (s : State) :
    (s.withSel x).busReadStatus = (s.busReadStatus.1, s.busReadStatus.2.withSel x) := by
  rw [State.withSel, State.withSel, (busReadStatus_effect s).blk, State.busReadStatus, answerStatus_setBlk]; rfl

theorem busReadRead_withSel (x : BitVec 2) (s : State) :
    (s.withSel x).busReadRead = (s.busReadRead.1, s.busReadRead.2.withSel x) := by
  rw [State.withSel, State.withSel, (busReadRead_effect s).blk, State.busReadRead, answerRead_setBlk]; rfl

theorem busWrite_withSel (v : Byte) (x : BitVec 2) (s : State) :
    (s.withSel x).busWrite v = ((s.busWrite v).1, (s.busWrite v).2.withSel x) := by
  rw [State.withSel, State.withSel, (busWrite_effect v s).blk, State.busWrite, answerWrite_setBlk]; rfl

theorem pollStep_withSel (f : Byte → Bool) (next : Phase) (c : RespCode) (ans : BusAnswer) (x : BitVec 2) (s : State) :
    (s.withSel x).pollStep f next c ans = (s.pollStep f next c ans).withSel x := by
  cases ans with
  | err info reached => rfl
  | ok v =>
    have hlimit : (s.withSel x).params.pollLimit = .reads ((s.withSel x).blk.pcnt + 1) ↔
        s.params.pollLimit = .reads (s.blk.pcnt + 1) := Iff.rfl
    simp only [State.pollStep, hlimit]
    split
    · rfl
    · split <;> rfl

theorem phaseStaleStat_withSel (ans : BusAnswer) (x : BitVec 2) (s : State) :
    (s.withSel x).phaseStaleStat ans = (s.phaseStaleStat ans).withSel x := by
  cases ans with
  | err info reached => rfl
  | ok v =>
    simp only [State.phaseStaleStat]
    split <;> rfl

theorem phaseAdvance_withSel (next : Phase) (ans : BusAnswer) (x : BitVec 2) (s : State) :
    (s.withSel x).phaseAdvance next ans = (s.phaseAdvance next ans).withSel x := by
  cases ans <;> rfl

theorem withSel_phase (x : BitVec 2) (s : State) : (s.withSel x).blk.phase = s.blk.phase := rfl

theorem afterStatus_withSel (ans : BusAnswer) (x : BitVec 2) (s : State) :
    (s.withSel x).afterStatus ans = (s.afterStatus ans).withSel x := by
  simp only [State.afterStatus, withSel_phase, pollStep_withSel, phaseStaleStat_withSel]
  split <;> rfl

/-- Whether a completion has its latched fields does not depend on the record. -/
theorem completionSel_withSel {b : Block} {sel : BitVec 2} (h : b.completionSel = .ok sel) (x : BitVec 2) :
    ∃ y, Block.completionSel { b with sel := x } = .ok y := by
  rcases hop : b.op with _ | _ | _ | _ <;> simp only [Block.completionSel, hop] at h ⊢
  case none => cases h
  case some.vread => exact ⟨x, rfl⟩
  case some.vwrite =>
    cases haddr : b.addr with
    | none => rw [haddr] at h; cases h
    | some a => exact ⟨_, rfl⟩
  case some.select =>
    cases hdev : b.dev with
    | none => rw [hdev] at h; cases h
    | some d => exact ⟨d, rfl⟩

/-- A completion overwrites the record with what the latch says, or keeps it. -/
theorem complete_withSel (d : Option Byte) (x : BitVec 2) (s : State) :
    SameButSel (s.complete d) ((s.withSel x).complete d) := by
  intro t h
  obtain ⟨sel, hsel, rfl⟩ := complete_next h
  obtain ⟨y, hy⟩ := completionSel_withSel hsel x
  exact ⟨y, complete_of_ok hy⟩

theorem afterRead_withSel (ans : BusAnswer) (x : BitVec 2) (s : State) :
    SameButSel (s.afterRead ans) ((s.withSel x).afterRead ans) := by
  simp only [State.afterRead, withSel_phase, phaseAdvance_withSel]
  split
  case h_2 =>
    cases ans with
    | err info reached => exact sameButSel_next x _
    | ok v => exact complete_withSel (some v) x s
  all_goals exact sameButSel_next x _

theorem afterWrite_withSel (ans : BusAnswer) (x : BitVec 2) (s : State) :
    SameButSel (s.afterWrite ans) ((s.withSel x).afterWrite ans) := by
  simp only [State.afterWrite, withSel_phase, phaseAdvance_withSel]
  split
  case h_3 =>
    cases ans with
    | err info reached => exact sameButSel_next x _
    | ok v => exact complete_withSel none x s
  all_goals exact sameButSel_next x _

theorem accept_withSel {clause : State → State} {x : BitVec 2} {s : State}
    (h : clause (s.withSel x) = (clause s).withSel x) :
    SameButSel (s.accept clause) ((s.withSel x).accept clause) := by
  have hbusy : (s.withSel x).blk.busy = s.blk.busy := rfl
  simp only [State.accept, hbusy, h]
  split <;> exact sameButSel_next x _

theorem execSelect_withSel (dev : BitVec 2) (x : BitVec 2) (s : State) :
    SameButSel (execSelect dev s) (execSelect dev (s.withSel x)) := by
  refine accept_withSel ?_
  split <;> rfl

/-- No instruction acts on the record. -/
theorem exec_withSel (i : Instr) (x : BitVec 2) (s : State) : SameButSel (exec i s) (exec i (s.withSel x)) := by
  cases i with
  | vread a =>
    rw [exec, exec, execVread]
    exact accept_withSel rfl
  | vwrite a d =>
    rw [exec, exec, execVwrite]
    exact accept_withSel rfl
  | select dev => exact execSelect_withSel dev x s
  | fdec b => exact accept_withSel (by rfl)
  | perm v => exact accept_withSel (by rfl)
  | rdcmd a =>
    rw [exec, exec, execRdcmd, execRdcmd,
      withSel_of_setBlk (f := State.serveRead a) (serveRead_setBlk a) fun s => (serveRead_onlyEnv a s).blk]
    exact sameButSel_next x _
  | wrcmd a d =>
    rw [exec, exec, execWrcmd, execWrcmd,
      withSel_of_setBlk (f := State.serveWrite a d) (serveWrite_setBlk a d) fun s => (serveWrite_onlyEnv a d s).blk]
    exact sameButSel_next x _
  | busRdStatus =>
    simp only [exec, execBusRdStatus, busReadStatus_withSel, afterStatus_withSel]
    exact sameButSel_next x _
  | busRdRead =>
    simp only [exec, execBusRdRead, busReadRead_withSel]
    exact afterRead_withSel _ x _
  | busWrWrite b =>
    simp only [exec, execBusWrWrite, busWrite_withSel]
    exact afterWrite_withSel _ x _

/-- The same move from another record. -/
def Move.withSel (x : BitVec 2) : Move → Move
  | .run i s => .run i (s.withSel x)
  | .done s => .done (s.withSel x)
  | .stop r => .stop r

theorem runMove_withSel (x : BitVec 2) (m : Move) : SameButSel (runMove m) (runMove (m.withSel x)) := by
  cases m with
  | run i s => exact exec_withSel i x s
  | done s => exact sameButSel_next x s
  | stop r => intro t h; cases h

theorem acceptMove_withSel (x : BitVec 2) (s : State) : acceptMove (s.withSel x) = (acceptMove s).withSel x := by
  have hport : (s.withSel x).port = s.port := rfl
  simp only [acceptMove, hport]
  split
  · rfl
  · split <;> rfl

theorem writeMove_withSel (field : LatchField) (b : Option Byte) (x : BitVec 2) (s : State) :
    writeMove field b (s.withSel x) = (writeMove field b s).withSel x := by
  cases b <;> rfl

theorem blockMove_withSel (x : BitVec 2) (s : State) : blockMove (s.withSel x) = (blockMove s).withSel x := by
  simp only [blockMove, withSel_phase]
  cases s.blk.phase with
  | idle => exact acceptMove_withSel x s
  | rdCmd | wrCmd | wrData => exact writeMove_withSel _ _ x s
  | _ => rfl

theorem deviceMove_withSel (x : BitVec 2) (s : State) : deviceMove (s.withSel x) = (deviceMove s).withSel x := by
  have hdev : (s.withSel x).dev = s.dev := rfl
  simp only [deviceMove, hdev]
  split <;> rfl

/-- A step from another record does the same but for the record; reset makes the two equal. -/
theorem step_withSel (x : BitVec 2) (s : State) : SameButSel (step s) (step (s.withSel x)) := by
  have hinputs : (s.withSel x).inputs = s.inputs := rfl
  simp only [step, nextMove, hinputs]
  split
  case h_1 => rw [blockMove_withSel]; exact runMove_withSel x _
  case h_2 more _ =>
    rw [show { s.withSel x with inputs := more } = ({ s with inputs := more } : State).withSel x from rfl,
      blockMove_withSel]
    exact runMove_withSel x _
  case h_3 more _ =>
    rw [show { s.withSel x with inputs := more } = ({ s with inputs := more } : State).withSel x from rfl,
      deviceMove_withSel]
    exact runMove_withSel x _
  case h_6 => exact sameButSel_next selNone _
  all_goals exact sameButSel_next x _

/-- Settles O39: the writers are those of `step_sel`, and the record is one only by `step_withSel`. -/
theorem selectionHasThreeWriters : Obligations.SelectionHasThreeWriters := by
  refine ⟨fun s t hok h => ?_, fun s t x h => step_withSel x s t h, rfl⟩
  obtain hkept | hreset | ⟨hp, hresp, hsel⟩ := step_sel hok h
  · exact .inl hkept
  · exact .inr (.inl hreset)
  · exact (completionSel_cases hsel).imp_right fun hwriter => .inr ⟨hp, hresp, hwriter⟩

end Sys2Proof.Machine
end

section
/-! PROOFS. The memory family (20_memory.md): routing (R79), what a wire command does to the device (R97, R98), and the
device's own step. -/

namespace Sys2Proof.Machine

/-! ## Routing (R79) -/

/-- Only the die that has the code is routed to. -/
theorem codeOfDie_of_routedDie {codes : DevCodes} {c : BitVec 2} {die : Die} (h : routedDie codes c = some die) :
    codeOfDie codes die = c := by
  unfold routedDie at h
  split at h
  · cases h; assumption
  · split at h
    · cases h; assumption
    · split at h
      · cases h; assumption
      · cases h

/-- With injective codes (R10) every die is routed to by its own. -/
theorem routedDie_codeOfDie {p : Params} (hwf : p.wf = true) (die : Die) :
    routedDie p.devCode (codeOfDie p.devCode die) = some die := by
  simp only [Params.wf, Bool.and_eq_true, bne_iff_ne, ne_eq] at hwf
  obtain ⟨⟨⟨-, h12⟩, h13⟩, h23⟩ := hwf
  cases die with
  | dev1 => exact if_pos rfl
  | dev2 => rw [codeOfDie, routedDie, if_neg h12, if_pos rfl]
  | dev3 => rw [codeOfDie, routedDie, if_neg h13, if_neg h23, if_pos rfl]

theorem routedDie_eq_none_iff (codes : DevCodes) (c : BitVec 2) :
    routedDie codes c = none ↔ ∀ die, codeOfDie codes die ≠ c := by
  constructor
  · intro h
    unfold routedDie at h
    split_ifs at h with h1 h2 h3
    intro die
    cases die with
    | dev1 => exact h1
    | dev2 => exact h2
    | dev3 => exact h3
  · intro h
    have h1 : codes.dev1 ≠ c := h .dev1
    have h2 : codes.dev2 ≠ c := h .dev2
    have h3 : codes.dev3 ≠ c := h .dev3
    rw [routedDie, if_neg h1, if_neg h2, if_neg h3]

/-- Settles O33: the dies' own codes by `routedDie_codeOfDie`, any other code by `routedDie_eq_none_iff`. -/
theorem routingFollowsDevcode : Obligations.RoutingFollowsDevcode := fun p hwf =>
  ⟨routedDie_codeOfDie hwf, routedDie_eq_none_iff p.devCode⟩

/-! ## One virtual register -/

theorem reaches_eq_some {a : VAddr} {s : State} {die : Die} (hdie : routedDie s.params.devCode s.dev.devsel = some die)
    (hspoken : isListed a = true ∨ s.env = .reference) : s.reaches a = some die := by
  simp only [State.reaches, hdie, Bool.or_eq_true, decide_eq_true_eq]
  exact if_pos hspoken.symm

theorem reaches_eq_none {a : VAddr} {s : State}
    (h : routedDie s.params.devCode s.dev.devsel = none ∨ (isListed a = false ∧ s.env ≠ .reference)) :
    s.reaches a = none := by
  cases hdie : routedDie s.params.devCode s.dev.devsel with
  | none => simp only [State.reaches, hdie]
  | some die =>
    obtain hnone | ⟨hlisted, henv⟩ := h
    · rw [hnone] at hdie; cases hdie
    · simp [State.reaches, hdie, hlisted, henv]

theorem readVirtual_routed {a : VAddr} {s : State} {die : Die} (ha : a ≠ devselAddr) (h : s.reaches a = some die) :
    s.readVirtual a = s.dev.vreg.read (vregKey die a) := by
  simp only [State.readVirtual, if_neg ha, h]

theorem readVirtual_devsel_reference {s : State} (henv : s.env = .reference) :
    s.readVirtual devselAddr = 0#6 ++ s.dev.devsel := by
  rw [State.readVirtual, if_pos rfl, if_pos henv]

/-- Bits [1:0] read back at 0x4F are DEVSEL's, whatever the upper ones are (R208). -/
theorem readVirtual_devsel_low (s : State) : (s.readVirtual devselAddr).extractLsb' 0 2 = s.dev.devsel := by
  rw [State.readVirtual, if_pos rfl]
  exact BitVec.extractLsb'_append_eq_right

theorem writeVirtual_devsel (b : Byte) (s : State) :
    s.writeVirtual devselAddr b = s.setDev { s.dev with devsel := s.nextDevsel b } := if_pos rfl

theorem writeVirtual_routed {a : VAddr} {s : State} {die : Die} (ha : a ≠ devselAddr) (h : s.reaches a = some die)
    (b : Byte) : s.writeVirtual a b = s.setDev { s.dev with vreg := s.dev.vreg.write (vregKey die a) b } := by
  simp only [State.writeVirtual, if_neg ha, h]

theorem writeVirtual_unreached {a : VAddr} {s : State} (ha : a ≠ devselAddr) (h : s.reaches a = none) (b : Byte) :
    s.writeVirtual a b = s.toOracle := by
  simp only [State.writeVirtual, if_neg ha, h]

theorem writeVirtual_keeps_devsel {a : VAddr} (ha : a ≠ devselAddr) (b : Byte) (s : State) :
    (s.writeVirtual a b).dev.devsel = s.dev.devsel := by
  obtain ⟨h, -⟩ | ⟨-, -, h⟩ | ⟨-, _, -, h⟩ := writeVirtual_cases a b s
  · exact absurd h ha
  · rw [h]; rfl
  · rw [h]; rfl

/-- No per-die register changes with a write of DEVSEL, or where no die is routed. -/
theorem writeVirtual_keeps_vreg {a : VAddr} {s : State}
    (h : a = devselAddr ∨ routedDie s.params.devCode s.dev.devsel = none) (b : Byte) :
    (s.writeVirtual a b).dev.vreg = s.dev.vreg := by
  by_cases ha : a = devselAddr
  · rw [ha, writeVirtual_devsel]; rfl
  · rw [writeVirtual_unreached ha (reaches_eq_none (.inl (h.resolve_left ha)))]; rfl

theorem writeVirtual_stores {a : VAddr} {s : State} {die : Die} (hwf : s.dev.vreg.wf = true) (ha : a ≠ devselAddr)
    (h : s.reaches a = some die) (b : Byte) (key : Nat) :
    (s.writeVirtual a b).dev.vreg.read key = if key = vregKey die a then b else s.dev.vreg.read key := by
  rw [writeVirtual_routed ha h]
  exact Memory.read_write hwf

theorem nextDevsel_reference {s : State} (henv : s.env = .reference) (b : Byte) :
    s.nextDevsel b = b.extractLsb' 0 2 := by
  simp [State.nextDevsel, henv]

theorem devselPayload_low (codes : DevCodes) (die : Die) :
    (devselPayload codes die).extractLsb' 0 2 = codeOfDie codes die := BitVec.extractLsb'_append_eq_right

/-- A full code takes effect (R102). -/
theorem nextDevsel_devselPayload (s : State) (die : Die) :
    s.nextDevsel (devselPayload s.params.devCode die) = codeOfDie s.params.devCode die := by
  have hfull : isFullCode s.params.devCode (devselPayload s.params.devCode die) = true := by
    cases die <;> simp [isFullCode]
  rw [State.nextDevsel, hfull, Bool.or_true, if_pos rfl, devselPayload_low]

/-! ## The wire commands (R97, R98) -/

/-- Everything a wire read command does. -/
theorem serveRead_eq (a : VAddr) (s : State) : s.serveRead a = { s with
    dev := { s.dev with
      outbound := some (if s.env = .reference ∨ s.dev.outbound = none then s.readVirtual a
        else Config.freeByte (s.fresh + 1))
      slot := .empty
      rxw := if s.env = .reference then s.params.lrx else s.dev.rxw }
    fresh := s.fresh + 2 } := by
  rw [onlyEnv_eq (serveRead_onlyEnv a s) (serveRead_answers a s), serveRead_env, serveRead_fresh, serveRead_dev,
    ← serveRead_outbound, serveRead_dev]

/-- Settles O34: `serveRead_eq`, and the byte by `readVirtual`'s two cases. -/
theorem readCommandPlacesTheByte : Obligations.ReadCommandPlacesTheByte := by
  intro s a
  refine ⟨_, _, _, congrArg _ (serveRead_eq a s), fun henv => if_neg henv, fun hempty => ?_⟩
  rw [if_pos hempty.symm]
  refine ⟨fun die ha hdie hspoken => readVirtual_routed ha (reaches_eq_some hdie hspoken), ?_⟩
  rintro rfl
  exact readVirtual_devsel_low s

/-- A wire write command frees the slot and WRITE, and otherwise changes DEVSEL, the registers and who answers alone. -/
theorem serveWrite_eq (a : VAddr) (b : Byte) (s : State) : s.serveWrite a b = { s with
    dev := { s.dev with
      slot := .empty
      inbound := none
      devsel := (s.serveWrite a b).dev.devsel
      vreg := (s.serveWrite a b).dev.vreg }
    env := (s.serveWrite a b).env
    fresh := (s.serveWrite a b).fresh } := by
  unfold State.serveWrite
  obtain ⟨-, h⟩ | ⟨-, -, h⟩ | ⟨-, _, -, h⟩ := writeVirtual_cases a b s <;> rw [h] <;> rfl

theorem serveWrite_devsel (b : Byte) (s : State) : s.serveWrite devselAddr b = { s with
    dev := { s.dev with slot := .empty, inbound := none, devsel := s.nextDevsel b }
    fresh := s.fresh + 1 } := by
  rw [State.serveWrite, writeVirtual_devsel]
  rfl

/-- Settles O35: `serveWrite_eq`, and what is stored by `writeVirtual`'s three cases. -/
theorem writeCommandWritesTheRegister : Obligations.WriteCommandWritesTheRegister := by
  intro s a b hwf
  refine ⟨s.serveWrite a b, rfl, serveWrite_eq a b s, ?_, ?_, fun ha => writeVirtual_keeps_devsel ha b s, ?_⟩
  · intro die ha hdie hspoken
    have hreach := reaches_eq_some hdie hspoken
    refine ⟨?_, writeVirtual_keeps_devsel ha b s, writeVirtual_stores hwf ha hreach b⟩
    rw [serveWrite_env, writeVirtual_routed ha hreach, State.setDev_env]
  · rintro (rfl : a = devselAddr)
    refine ⟨?_, writeVirtual_keeps_vreg (.inl rfl) b, ?_⟩
    · rw [serveWrite_env, writeVirtual_devsel, State.setDev_env]
    · rintro die rfl
      exact nextDevsel_devselPayload s die
  · intro ha hlost
    rw [serveWrite_dev, serveWrite_env, writeVirtual_unreached ha (reaches_eq_none hlost)]
    exact ⟨rfl, rfl⟩

/-! ## The device's step -/

theorem slotOfCommand_read {b : Byte} (h : b.getLsbD 7 = false) : slotOfCommand b = .rd (cmdAddr b) := by
  rw [slotOfCommand, cmdIsWrite, h, if_neg Bool.false_ne_true]

theorem slotOfCommand_write {b : Byte} (h : b.getLsbD 7 = true) : slotOfCommand b = .wr (cmdAddr b) := if_pos h

/-- Settles O10: the device's turn is `deviceMove`, slot by slot. -/
theorem stepRunsTheWireCommand : Obligations.StepRunsTheWireCommand := by
  intro s s0 hturn
  have hdev : s0.dev = s.dev := by
    obtain ⟨more, -, rfl⟩ := hturn
    rfl
  rw [step_deviceTurn hturn, ← hdev]
  refine ⟨fun a hslot => ?_, fun a b hslot hin => ?_, fun b hslot hin hbit => ?_, fun b hslot hin hbit => ?_,
    fun hin hslot => ?_⟩
  · simp only [deviceMove, hslot]; rfl
  · simp only [deviceMove, hslot, hin]; rfl
  · simp only [deviceMove, hslot, hin, slotOfCommand_read hbit]; rfl
  · simp only [deviceMove, hslot, hin, slotOfCommand_write hbit]; rfl
  · cases h : s0.dev.slot with
    | rd a => exact absurd h (hslot a)
    | empty | wr _ => simp only [deviceMove, h, hin]; rfl

end Sys2Proof.Machine
end

section
/-! PROOFS. The reference device's answers (R104). -/

namespace Sys2Proof.Machine

/-! ## The reference device's answers -/

theorem answerStatus_reference {s : State} (henv : s.env = .reference) :
    s.answerStatus = (.ok s.dev.refStatus, s.setDev s.dev.refTick) := by
  simp only [State.answerStatus, henv]

/-- With no latency left READ gives its byte, or 0 where it holds none. -/
theorem answerRead_reference_ready {s : State} (henv : s.env = .reference) (hrx : s.dev.rxw = 0) :
    s.answerRead = (.ok (s.dev.outbound.getD 0), s.setDev { s.dev with outbound := none }) := by
  simp only [State.answerRead, henv, hrx, if_true]

theorem answerRead_reference_waiting {s : State} (henv : s.env = .reference) (hrx : 0 < s.dev.rxw) :
    s.answerRead = (.ok 0, s) := by
  simp only [State.answerRead, henv, Nat.ne_of_gt hrx, if_false]

theorem answerWrite_reference {s : State} (henv : s.env = .reference) (htx : s.dev.txb = 0) (b : Byte) :
    s.answerWrite b = (.ok 0, s.refReceive b) := by
  simp only [State.answerWrite, henv, htx, if_true]

theorem refReceive_payload {s : State} {a : VAddr} (hslot : s.dev.slot = .wr a) (b : Byte) :
    s.refReceive b = (s.serveWrite a b).setDev { (s.serveWrite a b).dev with txb := s.params.ltx } := by
  simp only [State.refReceive, hslot]

/-- Where no payload is awaited, bit 7 of the byte says whether it is a write or a read command (R128). -/
theorem refReceive_command {s : State} (hslot : ∀ a, s.dev.slot ≠ .wr a) (b : Byte) :
    s.refReceive b =
      if cmdIsWrite b then s.setDev { s.dev with slot := .wr (cmdAddr b), txb := s.params.ltx }
      else (s.serveRead (cmdAddr b)).setDev { (s.serveRead (cmdAddr b)).dev with txb := s.params.ltx } := by
  cases h : s.dev.slot with
  | wr a => exact absurd h (hslot a)
  | empty | rd _ =>
    simp only [State.refReceive, h]
    split <;> rfl

theorem busWrite_dev (b : Byte) (s : State) : (s.busWrite b).2.dev = (s.answerWrite b).2.dev := rfl

theorem busWrite_reference_dev {s : State} (henv : s.env = .reference) (htx : s.dev.txb = 0) (b : Byte) :
    (s.busWrite b).2.dev = (s.refReceive b).dev := by
  rw [busWrite_dev, answerWrite_reference henv htx]

/-- A STATUS byte in numbers: `TX_VALID` is bit 1, `RX_VALID` bit 0. -/
theorem statusByte_toNat (tx rx : Bool) : (statusByte 0 tx rx).toNat = (if tx then 2 else 0) + if rx then 1 else 0 := by
  cases tx <;> cases rx <;> rfl

theorem refStatus_toNat (d : Device) : d.refStatus.toNat =
    (if 0 < d.txb then 2 else 0) + if d.outbound ≠ none ∧ d.rxw = 0 then 1 else 0 := by
  rw [Device.refStatus, statusByte_toNat]
  simp [Option.isSome_iff_ne_none]

/-- Under the default codes of R10 the place of the routed die's registers is DEVSEL itself. -/
theorem routedDie_default {c : BitVec 2} (hc : c ≠ 3) :
    ∃ die, routedDie ⟨0, 1, 2⟩ c = some die ∧ die.index = c.toNat := by
  revert c
  decide

/-- Settles O32: each answer by its own lemma; the cells by `routedDie_default`. -/
theorem referenceDeviceAnswers : Obligations.ReferenceDeviceAnswers := by
  intro s henv hcodes hsel hwf
  obtain ⟨die, hdie, hindex⟩ := routedDie_default hsel
  have hreach : ∀ a, s.reaches a = some die := fun a => reaches_eq_some (by rw [hcodes, hdie]) (.inr henv)
  have hkey : ∀ a, vregKey die a = s.dev.devsel.toNat * 128 + a.toNat := fun a => by rw [vregKey, hindex]
  have hread : ∀ a, s.readVirtual a = if a = 0x4F#7 then 0#6 ++ s.dev.devsel
      else s.dev.vreg.read (s.dev.devsel.toNat * 128 + a.toNat) := by
    intro a
    split
    · subst_vars
      exact readVirtual_devsel_reference henv
    · rw [readVirtual_routed ‹_› (hreach a), hkey]
  refine ⟨⟨s.dev.refStatus, ?_, refStatus_toNat s.dev, ?_⟩, fun v hout hrx => ?_, fun hidle => ?_,
    fun b htx => ⟨0, ?_⟩, fun b a htx hslot => ?_, fun b htx hslot hbit => ?_, fun b htx hslot hbit => ?_⟩
  · rw [State.busReadStatus, answerStatus_reference henv]
  · rw [State.busReadStatus, answerStatus_reference henv]
    simp [Device.refTick, Option.isSome_iff_ne_none]
  · rw [State.busReadRead, answerRead_reference_ready henv hrx, hout]
    exact ⟨rfl, rfl⟩
  · rw [State.busReadRead]
    by_cases hrx : s.dev.rxw = 0
    · have hout : s.dev.outbound = none := hidle.resolve_right (by omega)
      rw [answerRead_reference_ready henv hrx, hout]
      exact ⟨rfl, by rw [← hout]; rfl⟩
    · rw [answerRead_reference_waiting henv (by omega)]
      exact ⟨rfl, rfl⟩
  · rw [State.busWrite, answerWrite_reference henv htx]
  · rw [busWrite_reference_dev henv htx, refReceive_payload hslot, State.setDev_dev, serveWrite_eq]
    refine ⟨rfl, rfl, rfl, rfl, ?_, fun key => ?_⟩
    all_goals simp only [serveWrite_dev]
    · split
      · subst_vars
        exact nextDevsel_reference henv b
      · exact writeVirtual_keeps_devsel ‹_› b s
    · by_cases ha : a = 0x4F#7
      · rw [if_neg (fun h => h.1 ha), writeVirtual_keeps_vreg (.inl ha)]
      · simp only [writeVirtual_stores hwf ha (hreach a), hkey, ha, ne_eq, not_false_eq_true, true_and]
  · have hwrite : cmdIsWrite b = true := hbit
    rw [busWrite_reference_dev henv htx, refReceive_command hslot, if_pos hwrite]
    rfl
  · have hcmd : cmdIsWrite b = false := hbit
    rw [busWrite_reference_dev henv htx, refReceive_command hslot, hcmd, if_neg Bool.false_ne_true, serveRead_eq,
      if_pos (.inl henv), if_pos henv, hread]
    rfl

end Sys2Proof.Machine
end

section
/-! PROOFS. What a bus transaction and a step store: the virtual registers and DEVSEL (R79, R80, R87, R98). -/

namespace Sys2Proof.Machine

/-! ## The phase rules leave the device alone -/

theorem afterStatus_dev (ans : BusAnswer) (s : State) : (s.afterStatus ans).dev = s.dev := by
  by_cases hp : s.blk.phase = .rdStaleStat ∨ s.blk.phase.isPolling = true
  · exact (busyResult_keeps (afterStatus_result ans hp)).1
  · unfold State.afterStatus
    cases h : s.blk.phase <;> simp [h, Phase.isPolling] at hp ⊢

theorem afterRead_dev {ans : BusAnswer} {s t : State} (h : s.afterRead ans = .next t) : t.dev = s.dev := by
  by_cases hp : s.blk.phase = .rdStaleDiscard ∨ s.blk.phase = .rdFetch
  · exact (busyResult_keeps (afterRead_result ans hp h)).1
  · unfold State.afterRead at h
    cases hph : s.blk.phase <;> simp [hph] at hp h <;> rw [h]

theorem afterWrite_dev {ans : BusAnswer} {s t : State} (h : s.afterWrite ans = .next t) : t.dev = s.dev := by
  by_cases hp : s.blk.phase = .rdCmd ∨ s.blk.phase = .wrCmd ∨ s.blk.phase = .wrData
  · exact (busyResult_keeps (afterWrite_result 0 ans hp h)).1
  · unfold State.afterWrite at h
    cases hph : s.blk.phase <;> simp [hph] at hp h <;> rw [h]

/-! ## The transactions -/

/-- A status read changes no device register (R87). -/
theorem busReadStatus_keeps (s : State) :
    s.busReadStatus.2.dev = { s.dev with txb := s.busReadStatus.2.dev.txb, rxw := s.busReadStatus.2.dev.rxw } := by
  simp only [State.busReadStatus, State.answerStatus, State.emit_dev]
  split
  · rw [oracleAnswer_dev]
  · split <;> rfl
  · rfl

/-- A read of READ consumes its byte or not, and changes nothing else (R87). -/
theorem busReadRead_keeps (s : State) :
    s.busReadRead.2.dev = s.dev ∨ s.busReadRead.2.dev = { s.dev with outbound := none } := by
  simp only [State.busReadRead, State.answerRead, State.emit_dev]
  split
  · exact .inl (oracleAnswer_dev _ _ _ s)
  · split
    · rename_i reached _
      cases reached
      · exact .inl rfl
      · exact .inr rfl
    · exact .inr rfl
  · split
    · exact .inr rfl
    · exact .inl rfl

/-- The next byte written to WRITE is the payload of a write of `a` that the reference device has in flight. -/
def State.takesPayload (a : VAddr) (s : State) : Prop := s.env = .reference ∧ s.dev.txb = 0 ∧ s.dev.slot = .wr a

theorem busWrite_of_takesPayload {a : VAddr} {s : State} (h : s.takesPayload a) (b : Byte) :
    (s.busWrite b).2.dev = { (s.serveWrite a b).dev with txb := s.params.ltx } := by
  obtain ⟨henv, htx, hslot⟩ := h
  rw [busWrite_reference_dev henv htx, refReceive_payload hslot, State.setDev_dev]

/-- A byte that is no payload for the reference device stores nothing in the step that writes it. -/
theorem busWrite_keeps_registers {s : State} (h : ∀ a, ¬ s.takesPayload a) (b : Byte) :
    (s.busWrite b).2.dev.vreg = s.dev.vreg ∧ (s.busWrite b).2.dev.devsel = s.dev.devsel := by
  rw [busWrite_dev, State.answerWrite]
  split
  · rw [oracleAnswer_dev]
    exact ⟨rfl, rfl⟩
  · split
    · split
      · exact receive_vreg b s
      · exact ⟨rfl, rfl⟩
    · exact receive_vreg b s
  · rename_i henv
    split
    · rename_i htx
      rw [refReceive_command (fun a hslot => h a ⟨henv, htx, hslot⟩)]
      split
      · exact ⟨rfl, rfl⟩
      · rw [serveRead_eq]
        exact ⟨rfl, rfl⟩
    · rw [oracleAnswer_dev]
      exact ⟨rfl, rfl⟩

/-- A write of WRITE changes a per-die register only as a payload, of another address than 0x4F, with a die routed. -/
theorem busWrite_keeps_vreg {s : State}
    (h : ∀ a, s.takesPayload a → a = devselAddr ∨ routedDie s.params.devCode s.dev.devsel = none) (b : Byte) :
    (s.busWrite b).2.dev.vreg = s.dev.vreg := by
  by_cases hpay : ∃ a, s.takesPayload a
  · obtain ⟨a, ha⟩ := hpay
    rw [busWrite_of_takesPayload ha]
    exact writeVirtual_keeps_vreg (h a ha) b
  · exact (busWrite_keeps_registers (not_exists.mp hpay) b).1

/-- A write of WRITE changes DEVSEL only as a payload for 0x4F. -/
theorem busWrite_keeps_devsel {s : State} (h : ¬ s.takesPayload devselAddr) (b : Byte) :
    (s.busWrite b).2.dev.devsel = s.dev.devsel := by
  by_cases hpay : ∃ a, s.takesPayload a
  · obtain ⟨a, ha⟩ := hpay
    rw [busWrite_of_takesPayload ha]
    exact writeVirtual_keeps_devsel (fun hdev => h (hdev ▸ ha)) b s
  · exact (busWrite_keeps_registers (not_exists.mp hpay) b).2

/-- Settles O36: the phase rules leave the device to the transaction, and a write stores as its payload alone. -/
theorem busTransactionsStoreWhereTheSlotSays : Obligations.BusTransactionsStoreWhereTheSlotSays := by
  intro s hwf
  refine ⟨fun t h => ?_, fun t h => ?_, fun b t h => ?_⟩
  · cases h
    rw [afterStatus_dev, busReadStatus_keeps]
    exact ⟨rfl, rfl, rfl, rfl, rfl⟩
  · rw [afterRead_dev h]
    obtain hdev | hdev := busReadRead_keeps s <;> rw [hdev]
    · exact ⟨rfl, rfl, rfl, rfl, .inl rfl⟩
    · exact ⟨rfl, rfl, rfl, rfl, .inr rfl⟩
  · rw [afterWrite_dev h]
    refine ⟨fun a die henv htx hslot ha hdie key => ?_, fun hnone => ?_, fun henv htx hslot => ?_, fun hnone => ?_⟩
    · rw [busWrite_of_takesPayload ⟨henv, htx, hslot⟩]
      exact writeVirtual_stores hwf ha (reaches_eq_some hdie (.inr henv)) b key
    · refine busWrite_keeps_vreg (fun a hpay => ?_) b
      obtain ⟨henv, htx, hslot⟩ := hpay
      obtain hother | hbusy | hdevsel | hdie := hnone
      · exact absurd henv hother
      · omega
      · exact .inl (hdevsel a hslot)
      · exact .inr hdie
    · have hpay : s.takesPayload devselAddr := ⟨henv, htx, hslot⟩
      rw [busWrite_of_takesPayload hpay, serveWrite_dev, writeVirtual_devsel]
      exact nextDevsel_reference henv b
    · refine busWrite_keeps_devsel (fun hpay => ?_) b
      obtain ⟨henv, htx, hslot⟩ := hpay
      obtain hother | hbusy | hslot' := hnone
      · exact hother henv
      · omega
      · exact hslot' hslot

/-! ## A step -/

/-- `StoreFrame` sees the parameters and the device alone. -/
theorem StoreFrame.congr {s s0 s1 t : State} (h : StoreFrame s0 s1) (hparams : s0.params = s.params)
    (hdev : s0.dev = s.dev) (ht : t.dev = s1.dev) : StoreFrame s t := by
  obtain ⟨hwf, hvreg, hdevsel⟩ := h
  rw [hparams, hdev, ← ht] at hvreg
  rw [hdev, ← ht] at hwf hdevsel
  exact ⟨hwf, hvreg, hdevsel⟩

theorem storeFrame_of_dev {s t : State} (h : t.dev = s.dev) : StoreFrame s t :=
  .of_same (by rw [h]) (by rw [h])

/-- Whoever moves, a step stores by `StoreFrame`, unless an input brings another device (R101, R103). -/
theorem step_store {s t : State} (h : step s = .next t) :
    (∃ d more, s.inputs = .deviceChanges d :: more) ∨ StoreFrame s t := by
  cases step_result h with
  | waits _ hturn => exact .inr (storeFrame_of_dev (blockTurn_dev hturn))
  | rejects _ _ _ _ hturn =>
    have hdev := blockTurn_dev hturn
    exact .inr (storeFrame_of_dev hdev)
  | accepts _ _ _ _ _ hturn _ _ _ haccept =>
    have hdev := blockTurn_dev hturn
    exact .inr (storeFrame_of_dev ((acceptResult_keeps haccept).1.trans hdev))
  | busy _ _ hturn _ hstep =>
    obtain ⟨e, s1, -, hstore, hresult⟩ := hstep
    exact .inr (hstore.congr (blockTurn_sameBlock hturn).params (blockTurn_dev hturn) (busyResult_keeps hresult).1)
  | device _ _ _ _ hturn hstore =>
    obtain ⟨more, -, rfl⟩ := hturn
    exact .inr (hstore.congr rfl rfl rfl)
  | changes d more hinputs => exact .inl ⟨d, more, hinputs⟩
  | offers => exact .inr (storeFrame_of_dev rfl)
  | resets => exact .inr (storeFrame_of_dev rfl)

/-- Settles O37: `step_store`, written out. -/
theorem registersChangeOnlyWhereAWriteIsInFlight : Obligations.RegistersChangeOnlyWhereAWriteIsInFlight :=
  fun _ _ hwf h => (step_store h).imp_right fun hstore => ⟨hstore.vreg hwf, hstore.devsel⟩

end Sys2Proof.Machine
end

section
/-! PROOFS. Whole operations with the reference device (R104): a VREAD returns the register's byte, a SELECT routes.
Each phase of a handshake is one lemma that says the state it leaves; what a poll does to the trace and the latencies is
left open. -/

namespace Sys2Proof.Machine

/-! ## Runs -/

/-- Steps of the machine lead from one state to the other. -/
def Steps : State → State → Prop := Relation.ReflTransGen fun s t => step s = .next t

theorem steps_of_step {s t : State} (h : step s = .next t) : Steps s t := .single h

theorem run_succ {M : Host.Core} {s s' : M.State} (h : M.step s = .next s') (k : Nat) :
    M.run (k + 1) s = M.run k s' := by
  rw [Host.Core.run, h]

theorem runFor_succ {s s' : State} (h : step s = .next s') (k : Nat) : runFor (k + 1) s = runFor k s' :=
  run_succ (M := Sys2Proof.core) h k

theorem runFor_of_steps {s t : State} (h : Steps s t) : ∃ k, runFor k s = .next t := by
  induction h using Relation.ReflTransGen.head_induction_on with
  | refl => exact ⟨0, rfl⟩
  | head hstep _ ih =>
    obtain ⟨k, hk⟩ := ih
    exact ⟨k + 1, (runFor_succ hstep k).trans hk⟩

/-- In `IDLE` the block's turn runs the operation offered (R122, R151). -/
theorem step_offered {s s0 : State} {r : Request} {rest : List Request} {i : Instr} (hturn : s.blockTurn s0)
    (hidle : s.blk.phase = .idle) (hport : s.port = r :: rest) (hdecode : decode (.req r) = .ok i) :
    step s = exec i { s0 with port := rest } := by
  obtain ⟨hblk, hport0, -⟩ := blockTurn_keeps hturn
  rw [step_blockTurn hturn]
  simp only [blockMove, hblk, hidle, acceptMove, hport0, hport, hdecode, runMove]

/-! ## The reference device between polls -/

/-- The device with READ and its latencies (R104) at other values: all that polls and reads of READ change. -/
def Device.showing (outbound : Option Byte) (txb rxw : Nat) (d : Device) : Device :=
  { d with outbound := outbound, txb := txb, rxw := rxw }

theorem refTick_iterate (n : Nat) (d : Device) : Device.refTick^[n] d =
    d.showing d.outbound (d.txb - n) (if d.outbound.isSome then d.rxw - n else d.rxw) := by
  induction n generalizing d with
  | zero => cases d; simp [Device.showing]
  | succ n ih =>
    rw [Function.iterate_succ_apply, ih]
    cases h : d.outbound <;> simp [Device.refTick, Device.showing, h, Nat.sub_sub, Nat.add_comm 1 n]

theorem txReady_refStatus (d : Device) : txReady d.refStatus = decide (d.txb = 0) := by
  rw [txReady, Device.refStatus, (statusByte_bits _ _ _).2.1]
  simp [Nat.pos_iff_ne_zero]

theorem rxReady_refStatus (d : Device) : rxReady d.refStatus = (d.outbound.isSome && decide (d.rxw = 0)) := by
  rw [rxReady, Device.refStatus, (statusByte_bits _ _ _).1]

theorem cmdIsWrite_cmdByte (w : Bool) (a : VAddr) : cmdIsWrite (cmdByte w a) = w := by
  rw [cmdIsWrite, cmdByte, BitVec.getLsbD_append, if_neg (by decide)]
  cases w <;> rfl

theorem cmdAddr_cmdByte (w : Bool) (a : VAddr) : cmdAddr (cmdByte w a) = a := BitVec.extractLsb'_append_eq_right

/-! ## One step with the reference device -/

/-- The reference device answers, only the block moves, and polling is unbounded (R104, `POLL_LIMIT = INF`). -/
structure ReferenceRun (s : State) : Prop where
  env : s.env = .reference
  inputs : s.inputs = []
  limit : s.params.pollLimit = .inf

/-- `s` further on in its operation: the block has entered `p`, and of the rest only what the bus changes is another. -/
def State.atPhase (p : Phase) (trace : List Event) (fresh : Nat) (d : Device) (s : State) : State :=
  { s with trace := trace, fresh := fresh, dev := d, blk := { s.blk with phase := p, pcnt := 0 } }

theorem ReferenceRun.atPhase {s : State} (h : ReferenceRun s) (p : Phase) (trace : List Event) (fresh : Nat)
    (d : Device) : ReferenceRun (s.atPhase p trace fresh d) := ⟨h.env, h.inputs, h.limit⟩

theorem ReferenceRun.step_block {s : State} (h : ReferenceRun s) : step s = runMove (blockMove s) :=
  step_blockTurn (.inl ⟨h.inputs, rfl⟩)

/-- A status read of the reference device, recorded. -/
def State.refPolled (s : State) : State := (s.setDev s.dev.refTick).emit (.rd .status s.dev.refStatus)

theorem ReferenceRun.step_status {s : State} (h : ReferenceRun s)
    (hp : s.blk.phase = .rdStaleStat ∨ s.blk.phase.isPolling = true) :
    step s = .next (s.refPolled.afterStatus (.ok s.dev.refStatus)) := by
  have hmove : blockMove s = .run .busRdStatus s := blockMove_status (by
    cases hph : s.blk.phase <;> simp [hph, Phase.isPolling] at hp ⊢)
  rw [step_block h, hmove, runMove, exec, execBusRdStatus, State.busReadStatus, answerStatus_reference h.env]
  rfl

/-- A read of READ with no latency left, in a phase that reads it. -/
theorem ReferenceRun.step_read {s : State} (h : ReferenceRun s)
    (hp : s.blk.phase = .rdStaleDiscard ∨ s.blk.phase = .rdFetch) (hrx : s.dev.rxw = 0) :
    step s = ((s.setDev { s.dev with outbound := none }).emit (.rd .read (s.dev.outbound.getD 0))).afterRead
      (.ok (s.dev.outbound.getD 0)) := by
  rw [step_block h, blockMove_read hp, runMove, exec, execBusRdRead, State.busReadRead,
    answerRead_reference_ready h.env hrx]
  rfl

theorem ReferenceRun.exec_write {s : State} (h : ReferenceRun s) (htx : s.dev.txb = 0) (b : Byte) :
    exec (.busWrWrite b) s = ((s.refReceive b).emit (.wr .write b)).afterWrite (.ok 0) := by
  rw [exec, execBusWrWrite, State.busWrite, answerWrite_reference h.env htx]
  rfl

/-! ## The polling loops -/

theorem afterStatus_poll {s : State} {f : Byte → Bool} {next : Phase} {c : RespCode}
    (hp : PollLoop s.blk.phase f next c) (ans : BusAnswer) : s.afterStatus ans = s.pollStep f next c ans := by
  unfold State.afterStatus
  generalize s.blk.phase = p at hp
  cases hp <;> rfl

theorem ReferenceRun.step_poll {s : State} {f : Byte → Bool} {next : Phase} {c : RespCode} (h : ReferenceRun s)
    (hp : PollLoop s.blk.phase f next c) : step s = .next (s.refPolled.pollStep f next c (.ok s.dev.refStatus)) := by
  have hp' : PollLoop s.refPolled.blk.phase f next c := hp
  rw [step_status h (.inr hp.isPolling), afterStatus_poll hp']

theorem ReferenceRun.step_poll_ready {s : State} {f : Byte → Bool} {next : Phase} {c : RespCode} (h : ReferenceRun s)
    (hp : PollLoop s.blk.phase f next c) (hready : f s.dev.refStatus = true) :
    step s = .next (s.refPolled.enter next) := by
  rw [step_poll h hp, State.pollStep, if_pos hready]

/-- The state after a poll of the reference device that the loop goes on from (R154). -/
def State.refRetried (s : State) : State := (s.refPolled.setBlk { s.blk with pcnt := s.blk.pcnt + 1 }).emit .dly

theorem ReferenceRun.step_poll_retry {s : State} {f : Byte → Bool} {next : Phase} {c : RespCode} (h : ReferenceRun s)
    (hp : PollLoop s.blk.phase f next c) (hready : ¬ f s.dev.refStatus = true) : step s = .next s.refRetried := by
  have hlimit : s.refPolled.params.pollLimit ≠ .reads (s.refPolled.blk.pcnt + 1) := by
    rw [show s.refPolled.params.pollLimit = .inf from h.limit]
    exact nofun
  rw [step_poll h hp, State.pollStep, if_neg hready, if_neg hlimit]
  rfl

/-- A loop whose condition the device comes to meet after some status reads ends at the first that shows it. -/
theorem ReferenceRun.poll_steps {f : Byte → Bool} {next : Phase} {c : RespCode} (n : Nat) {s : State}
    (h : ReferenceRun s) (hp : PollLoop s.blk.phase f next c) (hlater : f (Device.refTick^[n] s.dev).refStatus = true) :
    ∃ m trace, f (Device.refTick^[m] s.dev).refStatus = true ∧
      Steps s (s.atPhase next trace s.fresh (Device.refTick^[m + 1] s.dev)) := by
  induction n generalizing s with
  | zero => exact ⟨0, _, hlater, steps_of_step (step_poll_ready h hp hlater)⟩
  | succ n ih =>
    by_cases hready : f s.dev.refStatus = true
    · exact ⟨0, _, hready, steps_of_step (step_poll_ready h hp hready)⟩
    · have hretried : ReferenceRun s.refRetried := ⟨h.env, h.inputs, h.limit⟩
      obtain ⟨m, trace, hshown, hsteps⟩ := ih hretried hp hlater
      exact ⟨m + 1, trace, hshown, .head (step_poll_retry h hp hready) hsteps⟩

/-- A `TXready` loop ends, and then the device is not busy. -/
theorem ReferenceRun.pollTx_steps {s : State} {next : Phase} {c : RespCode} (h : ReferenceRun s)
    (hp : PollLoop s.blk.phase txReady next c) :
    ∃ trace rxw, Steps s (s.atPhase next trace s.fresh (s.dev.showing s.dev.outbound 0 rxw)) := by
  have hready : txReady (Device.refTick^[s.dev.txb] s.dev).refStatus = true := by
    simp [txReady_refStatus, refTick_iterate, Device.showing]
  obtain ⟨m, trace, hshown, hsteps⟩ := poll_steps _ h hp hready
  have htx : s.dev.txb - (m + 1) = 0 := by
    simp only [txReady_refStatus, refTick_iterate, Device.showing, decide_eq_true_eq] at hshown
    omega
  rw [refTick_iterate, htx] at hsteps
  exact ⟨trace, _, hsteps⟩

/-- Once a byte is placed in READ the `RXready` loop ends, and then READ may be read. -/
theorem ReferenceRun.pollRx_steps {s : State} {v : Byte} {next : Phase} {c : RespCode} (h : ReferenceRun s)
    (hp : PollLoop s.blk.phase rxReady next c) (hout : s.dev.outbound = some v) :
    ∃ trace txb, Steps s (s.atPhase next trace s.fresh (s.dev.showing s.dev.outbound txb 0)) := by
  have hready : rxReady (Device.refTick^[s.dev.rxw] s.dev).refStatus = true := by
    simp [rxReady_refStatus, refTick_iterate, Device.showing, hout]
  obtain ⟨m, trace, hshown, hsteps⟩ := poll_steps _ h hp hready
  have hrx : s.dev.rxw - (m + 1) = 0 := by
    simp only [rxReady_refStatus, refTick_iterate, Device.showing, hout, Option.isSome_some, if_true,
      Bool.true_and, decide_eq_true_eq] at hshown
    omega
  rw [refTick_iterate, hout, Option.isSome_some, if_pos rfl, hrx, ← hout] at hsteps
  exact ⟨trace, _, hsteps⟩

/-! ## The read handshake -/

/-- `RD_STALE_STAT` and, where it finds one, the discard of the byte left over (R155, R156). -/
theorem ReferenceRun.stale_steps {s : State} (h : ReferenceRun s) (hp : s.blk.phase = .rdStaleStat) :
    ∃ trace outbound txb rxw, Steps s (s.atPhase .rdPollTx trace s.fresh (s.dev.showing outbound txb rxw)) := by
  have hstep := step_status h (.inl hp)
  have hp' : s.refPolled.blk.phase = .rdStaleStat := hp
  simp only [State.afterStatus, hp', State.phaseStaleStat] at hstep
  by_cases hstale : rxReady s.dev.refStatus = true
  · rw [if_pos hstale] at hstep
    have hrx : s.dev.refTick.rxw = 0 := by
      rw [rxReady_refStatus, Bool.and_eq_true, decide_eq_true_eq] at hstale
      simp [Device.refTick, hstale]
    have hread := step_read (s := s.refPolled.goto .rdStaleDiscard) ⟨h.env, h.inputs, h.limit⟩ (.inl rfl) hrx
    exact ⟨_, _, _, _, .head hstep (steps_of_step hread)⟩
  · rw [if_neg hstale] at hstep
    exact ⟨_, _, _, _, steps_of_step hstep⟩

/-- `RD_CMD` (R158): the reference device takes the command and places the byte in READ. -/
theorem ReferenceRun.step_readCommand {s : State} {a : VAddr} (h : ReferenceRun s) (hp : s.blk.phase = .rdCmd)
    (haddr : s.blk.addr = some a) (htx : s.dev.txb = 0) (hslot : ∀ x, s.dev.slot ≠ .wr x) :
    step s = .next (s.atPhase .rdPollRx (.wr .write (cmdByte false a) :: s.trace) (s.fresh + 2)
      (Device.showing (some (s.readVirtual a)) s.params.ltx s.params.lrx { s.dev with slot := .empty })) := by
  rw [step_block h, blockMove_rdCmd hp haddr, runMove, exec_write h htx, refReceive_command hslot,
    cmdIsWrite_cmdByte, cmdAddr_cmdByte, if_neg Bool.false_ne_true, serveRead_eq, if_pos (.inl h.env), if_pos h.env]
  simp only [State.afterWrite, State.emit_blk, State.setDev_blk, hp]
  rfl

/-- `RD_FETCH` (R160): the read completes with READ's byte. -/
theorem ReferenceRun.step_fetch {s : State} {v : Byte} (h : ReferenceRun s) (hp : s.blk.phase = .rdFetch)
    (hop : s.blk.op = some .vread) (hrx : s.dev.rxw = 0) (hout : s.dev.outbound = some v) :
    step s = .next (((s.setDev { s.dev with outbound := none }).emit (.rd .read v)).completed (some v) s.blk.sel) := by
  have hsel : s.blk.completionSel = .ok s.blk.sel := by rw [Block.completionSel, hop]
  rw [step_read h (.inr hp) hrx, hout, Option.getD_some]
  simp only [State.afterRead, State.emit_blk, State.setDev_blk, hp]
  exact complete_of_ok hsel

/-- An accepted VREAD runs to its end (R155 to R160): what the device places is `readVirtual`'s byte, which neither the
polls nor the byte left over change. -/
theorem ReferenceRun.read_steps {s : State} {a : VAddr} (h : ReferenceRun s) (hp : s.blk.phase = .rdStaleStat)
    (hop : s.blk.op = some .vread) (haddr : s.blk.addr = some a) (hslot : ∀ x, s.dev.slot ≠ .wr x) :
    ∃ t, Steps s t ∧ t.blk.phase = .idle ∧ t.port = s.port ∧
      t.responses = okResponse (some (s.readVirtual a)) :: s.responses ∧
      t.dev.vreg = s.dev.vreg ∧ t.dev.devsel = s.dev.devsel ∧ t.blk.sel = s.blk.sel := by
  obtain ⟨trace1, outbound, txb1, rxw1, hstale⟩ := stale_steps h hp
  obtain ⟨trace2, rxw2, htxPoll⟩ :=
    pollTx_steps (h.atPhase .rdPollTx trace1 s.fresh (s.dev.showing outbound txb1 rxw1)) .readTx
  have hcommand :=
    step_readCommand (h.atPhase .rdCmd trace2 s.fresh (s.dev.showing outbound 0 rxw2)) rfl haddr rfl hslot
  obtain ⟨trace3, txb3, hrxPoll⟩ := pollRx_steps (v := s.readVirtual a) (h.atPhase .rdPollRx
    (.wr .write (cmdByte false a) :: trace2) (s.fresh + 2)
    (Device.showing (some (s.readVirtual a)) s.params.ltx s.params.lrx { s.dev with slot := .empty })) .readRx rfl
  have hfetch := step_fetch (v := s.readVirtual a) (h.atPhase .rdFetch trace3 (s.fresh + 2)
    (Device.showing (some (s.readVirtual a)) txb3 0 { s.dev with slot := .empty })) rfl hop rfl rfl
  exact ⟨_, ((hstale.trans htxPoll).tail hcommand).trans (hrxPoll.tail hfetch), rfl, rfl, rfl, rfl, rfl, rfl⟩

/-- Settles O57: acceptance, then `read_steps`. It needs no routed die: the byte is `readVirtual`'s whatever that is. -/
theorem referenceReadReturnsTheRegister : Obligations.ReferenceReadReturnsTheRegister := by
  intro s r rest a henv hin hlimit hidle hport hdecode hslot _
  have haccept := step_offered (.inl ⟨hin, rfl⟩) hidle hport hdecode
  rw [exec, execVread, accept_idle (by exact hidle)] at haccept
  obtain ⟨t, hsteps, hend⟩ := ReferenceRun.read_steps (s := ({ s with port := rest } : State).setBlk
    { s.blk with op := some .vread, addr := some a, phase := .rdStaleStat }) ⟨henv, hin, hlimit⟩ rfl rfl rfl hslot
  obtain ⟨k, hk⟩ := runFor_of_steps (.head haccept hsteps)
  exact ⟨k, t, hk, hend⟩

/-! ## The write handshake of a SELECT -/

/-- `WR_CMD` (R162): the reference device takes the command and awaits the payload. -/
theorem ReferenceRun.step_writeCommand {s : State} {a : VAddr} (h : ReferenceRun s) (hp : s.blk.phase = .wrCmd)
    (haddr : s.blk.addr = some a) (htx : s.dev.txb = 0) (hslot : ∀ x, s.dev.slot ≠ .wr x) :
    step s = .next (s.atPhase .wrPollTx2 (.wr .write (cmdByte true a) :: s.trace) s.fresh
      (Device.showing s.dev.outbound s.params.ltx s.dev.rxw { s.dev with slot := .wr a })) := by
  rw [step_block h, blockMove_wrCmd hp haddr, runMove, exec_write h htx, refReceive_command hslot,
    cmdIsWrite_cmdByte, cmdAddr_cmdByte, if_pos rfl]
  simp only [State.afterWrite, State.emit_blk, State.setDev_blk, hp]
  rfl

/-- `WR_DATA` (R164) with a write of 0x4F in flight: DEVSEL takes the payload's code, and the operation completes. -/
theorem ReferenceRun.step_devselPayload {s : State} {d : Byte} {sel : BitVec 2} (h : ReferenceRun s)
    (hp : s.blk.phase = .wrData) (hdata : s.blk.data = some d) (htx : s.dev.txb = 0)
    (hslot : s.dev.slot = .wr devselAddr) (hsel : s.blk.completionSel = .ok sel) :
    step s = .next (State.completed none sel { s with
      trace := .wr .write d :: s.trace
      dev := { s.dev with slot := .empty, inbound := none, devsel := d.extractLsb' 0 2, txb := s.params.ltx }
      fresh := s.fresh + 1 }) := by
  rw [step_block h, blockMove_wrData hp hdata, runMove, exec_write h htx, refReceive_payload hslot, serveWrite_devsel,
    nextDevsel_reference h.env]
  simp only [State.afterWrite, State.emit_blk, State.setDev_blk, hp]
  exact complete_of_ok hsel

/-- An accepted SELECT runs to its end (R161 to R164, R202): DEVSEL holds the payload's code. -/
theorem ReferenceRun.select_steps {s : State} {dev : BitVec 2} {d : Byte} (h : ReferenceRun s)
    (hp : s.blk.phase = .wrPollTx1) (hop : s.blk.op = some .select) (hdev : s.blk.dev = some dev)
    (haddr : s.blk.addr = some devselAddr) (hdata : s.blk.data = some d) (hslot : ∀ x, s.dev.slot ≠ .wr x) :
    ∃ t, Steps s t ∧ t.blk.phase = .idle ∧ t.port = s.port ∧ t.responses = okResponse none :: s.responses ∧
      t.blk.sel = dev ∧ t.params = s.params ∧ t.dev.devsel = d.extractLsb' 0 2 ∧ t.dev.vreg = s.dev.vreg := by
  have hp1 : PollLoop s.blk.phase txReady .wrCmd .timeoutWrAddr := hp ▸ .writeAddr
  obtain ⟨trace1, rxw1, hpoll1⟩ := pollTx_steps h hp1
  have hcommand :=
    step_writeCommand (h.atPhase .wrCmd trace1 s.fresh (s.dev.showing s.dev.outbound 0 rxw1)) rfl haddr rfl hslot
  obtain ⟨trace2, rxw2, hpoll2⟩ := pollTx_steps (h.atPhase .wrPollTx2
    (.wr .write (cmdByte true devselAddr) :: trace1) s.fresh
    (Device.showing s.dev.outbound s.params.ltx rxw1 { s.dev with slot := .wr devselAddr })) .writeData
  have hsel : s.blk.completionSel = .ok dev := by rw [Block.completionSel, hop, hdev]
  have hpayload := step_devselPayload (h.atPhase .wrData trace2 s.fresh
    (Device.showing s.dev.outbound 0 rxw2 { s.dev with slot := .wr devselAddr })) rfl hdata rfl rfl hsel
  exact ⟨_, (hpoll1.tail hcommand).trans (hpoll2.tail hpayload), rfl, rfl, rfl, rfl, rfl, rfl, rfl⟩

/-- Settles O58: acceptance and `select_steps`, with `routedDie_codeOfDie` for the code sent; a routing stays by
`step_store`. -/
theorem referenceSelectRoutes : Obligations.ReferenceSelectRoutes := by
  constructor
  · intro s r rest dev die henv hin hlimit hwf hidle hport hdecode hdie hslot
    have haccept := step_offered (.inl ⟨hin, rfl⟩) hidle hport hdecode
    rw [exec, execSelect, accept_idle (by exact hidle), hdie] at haccept
    obtain ⟨t, hsteps, hphase, hport', hresp, hsel, hparams, hdevsel, hvreg⟩ := ReferenceRun.select_steps
      (s := ({ s with port := rest } : State).setBlk { s.blk with
        op := some .select
        dev := some dev
        addr := some devselAddr
        data := some (devselPayload s.params.devCode die)
        phase := .wrPollTx1
        pcnt := 0 }) ⟨henv, hin, hlimit⟩ rfl rfl rfl rfl rfl hslot
    obtain ⟨k, hk⟩ := runFor_of_steps (.head haccept hsteps)
    refine ⟨k, t, hk, hphase, hport', hresp, hsel, ?_, hvreg⟩
    rw [hdevsel, devselPayload_low, hparams]
    exact routedDie_codeOfDie hwf die
  · intro s t die h hdie hslot hinputs
    obtain ⟨d, more, hchange⟩ | hstore := step_store h
    · exact absurd hchange (hinputs d more)
    · rw [step_params h, hstore.devsel.resolve_right hslot, hdie]

end Sys2Proof.Machine
end

section
/-! PROOFS. The encodings (30_encoding.md): the fields of the three formats, decoding and encoding as each other's
inverse, and the opcode map R143. -/

namespace Sys2Proof.Machine

/-! ## Fields of a concatenation and of a masked word -/

/-- A concatenation in numbers: the upper part counts in units of the lower part's range. -/
theorem toNat_concat {m n : Nat} (x : BitVec m) (y : BitVec n) : (x ++ y).toNat = x.toNat * 2 ^ n + y.toNat := by
  rw [BitVec.toNat_append, ← Nat.shiftLeft_add_eq_or_of_lt y.isLt, Nat.shiftLeft_eq]

/-- A field that the mask covers holds what the pattern holds there. -/
theorem field_of_masked {n : Nat} {w mask pattern : BitVec n} (h : w &&& mask = pattern) (start len : Nat)
    (hmask : mask.extractLsb' start len = BitVec.allOnes len) :
    w.extractLsb' start len = pattern.extractLsb' start len := by
  rw [← h, BitVec.extractLsb'_and, hmask, BitVec.and_allOnes]

/-- A bit that the mask covers is the pattern's. -/
theorem bit_of_masked {n : Nat} {w mask pattern : BitVec n} (h : w &&& mask = pattern) (i : Nat)
    (hmask : mask.getLsbD i = true) : w.getLsbD i = pattern.getLsbD i := by
  rw [← h, BitVec.getLsbD_and, hmask, Bool.and_true]

/-- A row whose mask is all ones has no free bit. -/
theorem eq_of_fullMask {n : Nat} {w pattern : BitVec n} (h : w &&& BitVec.allOnes n = pattern) : w = pattern :=
  BitVec.and_allOnes.symm.trans h

/-! ## Request words (R111) -/

section
variable (op : BitVec 3) (dev : BitVec 2) (addr : VAddr) (data : Byte)

@[simp] theorem reqOp_reqWord : reqOp (reqWord op dev addr data) = op := by
  simp (disch := decide) only [reqOp, reqWord, BitVec.extractLsb'_append_eq_of_le, Nat.reduceSub,
    BitVec.extractLsb'_eq_self]

@[simp] theorem reqRsv_reqWord : reqRsv (reqWord op dev addr data) = 0#11 := by
  simp (disch := decide) only [reqRsv, reqWord, BitVec.extractLsb'_append_eq_of_le, Nat.reduceSub,
    BitVec.extractLsb'_append_eq_right]

@[simp] theorem reqDev_reqWord : reqDev (reqWord op dev addr data) = dev := by
  simp (disch := decide) only [reqDev, reqWord, BitVec.extractLsb'_append_eq_of_le, Nat.reduceSub,
    BitVec.extractLsb'_append_eq_right]

@[simp] theorem reqRsvw_reqWord : reqRsvw (reqWord op dev addr data) = 0#1 := by
  simp (disch := decide) only [reqRsvw, reqWord, BitVec.extractLsb'_append_eq_of_le, Nat.reduceSub,
    BitVec.extractLsb'_append_eq_right]

@[simp] theorem reqAddr_reqWord : reqAddr (reqWord op dev addr data) = addr := by
  simp (disch := decide) only [reqAddr, reqWord, BitVec.extractLsb'_append_eq_of_le, Nat.reduceSub,
    BitVec.extractLsb'_append_eq_right]

@[simp] theorem reqData_reqWord : reqData (reqWord op dev addr data) = data := BitVec.extractLsb'_append_eq_right

theorem reqWord_toNat : (reqWord op dev addr data).toNat =
    op.toNat * 2 ^ 29 + dev.toNat * 2 ^ 16 + addr.toNat * 2 ^ 8 + data.toNat := by
  simp only [reqWord, toNat_concat, BitVec.toNat_ofNat]
  omega

end

/-- A word whose reserved bits are 0 is the word of its fields. -/
theorem reqWord_fields {w : Word} (hrsv : reqRsv w = 0#11) (hrsvw : reqRsvw w = 0#1) :
    reqWord (reqOp w) (reqDev w) (reqAddr w) (reqData w) = w := by
  rw [reqWord, ← hrsv, ← hrsvw]
  unfold reqOp reqRsv reqDev reqRsvw reqAddr reqData
  iterate 5 rw [BitVec.extractLsb'_append_extractLsb'_eq_extractLsb' (by rfl)]
  exact BitVec.extractLsb'_eq_self

section
variable {r : Request}

theorem decodeReq_vread {addr : VAddr} (h : r.word = reqWord 0 0 addr 0) : decodeReq r = .ok (.vread addr) := by
  simp [decodeReq, h]

theorem decodeReq_vwrite {addr : VAddr} {data : Byte} (h : r.word = reqWord 1 0 addr data) :
    decodeReq r = .ok (.vwrite addr data) := by
  simp [decodeReq, h]

theorem decodeReq_select {dev : BitVec 2} (h : r.word = reqWord 2 dev 0 0) : decodeReq r = .ok (.select dev) := by
  simp [decodeReq, h]

theorem decodeReq_fdec (h : r.word = reqWord 3 0 0 0) : decodeReq r = .ok (.fdec r.bytes) := by
  simp [decodeReq, h]

theorem decodeReq_perm (h : r.word = reqWord 4 0 0 0) : decodeReq r = .ok (.perm r.lanes) := by
  simp [decodeReq, h]

/-- The operation left once R123's reserved ones and the first four are excluded. -/
theorem op_eq_four : ∀ op : BitVec 3, ¬ (op = 5 ∨ op = 6 ∨ op = 7) → op ≠ 0 → op ≠ 1 → op ≠ 2 → op ≠ 3 →
    op = 4 := by
  decide

/-- R122's checks leave no freedom: a request that decodes carries the word its operation encodes to. -/
theorem word_of_decodeReq {i : Instr} (h : decodeReq r = .ok i) : ∃ r', encode i = .req r' ∧ r'.word = r.word := by
  simp only [decodeReq] at h
  split at h
  · cases h
  next hop =>
  split at h
  · cases h
  next hrsv =>
  obtain ⟨hrsv, hrsvw⟩ := not_or.mp hrsv
  have hword := reqWord_fields (not_not.mp hrsv) (not_not.mp hrsvw)
  split_ifs at h with h0 hzero h1 hzero h2 hzero hzero h3 <;> cases h <;>
    simp only [not_or, ne_eq, not_not] at hzero
  · obtain ⟨hdev, hdata⟩ := hzero
    rw [h0, hdev, hdata] at hword
    exact ⟨_, rfl, hword⟩
  · rw [h1, hzero] at hword
    exact ⟨_, rfl, hword⟩
  · obtain ⟨haddr, hdata⟩ := hzero
    rw [h2, haddr, hdata] at hword
    exact ⟨_, rfl, hword⟩
  · obtain ⟨hdev, haddr, hdata⟩ := hzero
    rw [h3, hdev, haddr, hdata] at hword
    exact ⟨_, rfl, hword⟩
  · obtain ⟨hdev, haddr, hdata⟩ := hzero
    rw [op_eq_four _ hop h0 h1 h2 h3, hdev, haddr, hdata] at hword
    exact ⟨_, rfl, hword⟩

end

/-! ## Wire commands (R113) -/

theorem cmdByte_fields (b : Byte) : cmdByte (cmdIsWrite b) (cmdAddr b) = b := by
  revert b; decide

theorem decodeCmd_read {b : Byte} (h : cmdIsWrite b = false) : decodeCmd [b] = .ok (.rdcmd (cmdAddr b)) := by
  simp [decodeCmd, h]

theorem decodeCmd_write {b : Byte} (h : cmdIsWrite b = true) (d : Byte) :
    decodeCmd [b, d] = .ok (.wrcmd (cmdAddr b) d) := by
  simp [decodeCmd, h]

/-- Bit 7 of the first byte fixes the length, so a byte string that decodes is the command's encoding (R128). -/
theorem encode_of_decodeCmd {bytes : List Byte} {i : Instr} (h : decodeCmd bytes = .ok i) : encode i = .cmd bytes := by
  match bytes with
  | [] => cases h
  | [b] =>
    rw [decodeCmd] at h
    split at h <;> cases h
    next hread => rw [encode, ← Bool.eq_false_iff.mpr hread, cmdByte_fields]
  | [b, d] =>
    rw [decodeCmd] at h
    split at h <;> cases h
    next hwrite => rw [encode, ← hwrite, cmdByte_fields]
  | _ :: _ :: _ :: _ => cases h

/-! ## Transaction descriptors (R121) -/

@[simp] theorem txnKind_txnWord (kind : BitVec 3) (data : Byte) : txnKind (txnWord kind data) = kind :=
  BitVec.extractLsb'_append_eq_left

@[simp] theorem txnData_txnWord (kind : BitVec 3) (data : Byte) : txnData (txnWord kind data) = data :=
  BitVec.extractLsb'_append_eq_right

theorem txnWord_fields (d : TxnWord) : txnWord (txnKind d) (txnData d) = d := BitVec.extractLsb'_append_extractLsb'

theorem decodeTxn_write {d : TxnWord} (h : txnKind d = 5) : decodeTxn d = .ok (.busWrWrite (txnData d)) := by
  have hstatus : d ≠ 0x000#11 := by rintro rfl; exact absurd h (by decide)
  have hread : d ≠ 0x200#11 := by rintro rfl; exact absurd h (by decide)
  rw [decodeTxn, if_neg hstatus, if_neg hread, if_pos h]

theorem encode_of_decodeTxn {d : TxnWord} {i : Instr} (h : decodeTxn d = .ok i) : encode i = .txn d := by
  rw [decodeTxn] at h
  split_ifs at h with hstatus hread hkind <;> cases h
  · rw [hstatus]; rfl
  · rw [hread]; rfl
  · rw [encode, ← hkind, txnWord_fields]

/-! ## Decoding and encoding -/

/-- Settles O1: each constructor's encoding read back by its format's decoder. -/
theorem decodeOfEncodeIsIdentity : Obligations.DecodeOfEncodeIsIdentity := by
  intro i
  cases i with
  | vread addr => exact decodeReq_vread rfl
  | vwrite addr data => exact decodeReq_vwrite rfl
  | select dev => exact decodeReq_select rfl
  | fdec bytes => exact decodeReq_fdec rfl
  | perm lanes => exact decodeReq_perm rfl
  | rdcmd addr =>
    rw [encode, decode, decodeCmd_read (cmdIsWrite_cmdByte false addr), cmdAddr_cmdByte]
  | wrcmd addr payload =>
    rw [encode, decode, decodeCmd_write (cmdIsWrite_cmdByte true addr), cmdAddr_cmdByte]
  | busRdStatus => rfl
  | busRdRead => rfl
  | busWrWrite data => rw [encode, decode, decodeTxn_write (txnKind_txnWord 5 data), txnData_txnWord]

/-- Settles O2, format by format. -/
theorem decodedBitsAreTheEncoding : Obligations.DecodedBitsAreTheEncoding := by
  intro c i h
  refine ⟨?_, ?_, ?_⟩
  · rintro r rfl; exact word_of_decodeReq h
  · rintro bytes rfl; exact encode_of_decodeCmd h
  · rintro d rfl; exact encode_of_decodeTxn h

/-- Settles O4: each word is decoded by evaluation. -/
theorem wordsOfTheSpecDecode : Obligations.WordsOfTheSpecDecode := by
  unfold Obligations.WordsOfTheSpecDecode
  decide

/-! ## The opcode map (R143) -/

section
variable {w mask pattern : Word}

/-- A row whose mask covers `OP` and the reserved bits, with these 0 in its pattern, fixes the word up to the fields
that are left. -/
theorem reqWord_of_masked (h : w &&& mask = pattern)
    (hmask : reqOp mask = BitVec.allOnes 3 ∧ reqRsv mask = BitVec.allOnes 11 ∧ reqRsvw mask = BitVec.allOnes 1)
    (hpattern : reqRsv pattern = 0#11 ∧ reqRsvw pattern = 0#1) :
    w = reqWord (reqOp pattern) (reqDev w) (reqAddr w) (reqData w) := by
  obtain ⟨hop, hrsv, hrsvw⟩ := hmask
  obtain ⟨hrsv0, hrsvw0⟩ := hpattern
  rw [reqOp, ← field_of_masked h 29 3 hop]
  exact (reqWord_fields ((field_of_masked h 18 11 hrsv).trans hrsv0)
    ((field_of_masked h 15 1 hrsvw).trans hrsvw0)).symm

theorem word_of_vreadRow (h : w &&& 0xFFFF80FF#32 = 0x00000000#32) : w = reqWord 0 0 (reqAddr w) 0 := by
  have hdev : reqDev w = 0 := field_of_masked h 16 2 (by decide)
  have hdata : reqData w = 0 := field_of_masked h 0 8 (by decide)
  have hword := reqWord_of_masked h (by decide) (by decide)
  rwa [hdev, hdata] at hword

theorem word_of_vwriteRow (h : w &&& 0xFFFF8000#32 = 0x20000000#32) : w = reqWord 1 0 (reqAddr w) (reqData w) := by
  have hdev : reqDev w = 0 := field_of_masked h 16 2 (by decide)
  have hword := reqWord_of_masked h (by decide) (by decide)
  rwa [hdev] at hword

theorem word_of_selectRow (h : w &&& 0xFFFCFFFF#32 = 0x40000000#32) : w = reqWord 2 (reqDev w) 0 0 := by
  have haddr : reqAddr w = 0 := field_of_masked h 8 7 (by decide)
  have hdata : reqData w = 0 := field_of_masked h 0 8 (by decide)
  have hword := reqWord_of_masked h (by decide) (by decide)
  rwa [haddr, hdata] at hword

end

/-- A request that decodes lies in one of the five REQ rows. -/
theorem row_of_decodeReq {r : Request} {i : Instr} (h : decodeReq r = .ok i) :
    r.word &&& 0xFFFF80FF#32 = 0x00000000#32 ∨ r.word &&& 0xFFFF8000#32 = 0x20000000#32 ∨
    r.word &&& 0xFFFCFFFF#32 = 0x40000000#32 ∨ r.word = 0x60000000#32 ∨ r.word = 0x80000000#32 := by
  obtain ⟨r', hencode, hword⟩ := word_of_decodeReq h
  rw [← hword]
  cases i <;> cases hencode
  case vread addr => exact .inl (BitVec.eq_of_toNat_eq (Laws.TableRow.vread addr).2)
  case vwrite addr data => exact .inr (.inl (Laws.TableRow.reqWord_vwrite addr data))
  case select dev => exact .inr (.inr (.inl (BitVec.eq_of_toNat_eq (Laws.TableRow.select dev).2)))
  case fdec => exact .inr (.inr (.inr (.inl rfl)))
  case perm => exact .inr (.inr (.inr (.inr rfl)))

theorem txnKind_of_row {d : TxnWord} (h : d &&& 0x700#11 = 0x500#11) : txnKind d = 5 :=
  field_of_masked h 8 3 (by decide)

/-- A descriptor that decodes lies in one of the three BUSTXN rows. -/
theorem row_of_decodeTxn {d : TxnWord} {i : Instr} (h : decodeTxn d = .ok i) :
    d = 0x000#11 ∨ d = 0x200#11 ∨ d &&& 0x700#11 = 0x500#11 := by
  have hencode := encode_of_decodeTxn h
  cases i <;> cases hencode
  case busRdStatus => exact .inl (by decide)
  case busRdRead => exact .inr (.inl (by decide))
  case busWrWrite data => exact .inr (.inr (BitVec.eq_of_toNat_eq (Laws.TableRow.busWrWrite data).2))

theorem error_of_not_ok {ε α : Type} {x : Except ε α} (h : ∀ a, x ≠ .ok a) : ∃ e, x = .error e := by
  cases x with
  | error e => exact ⟨e, rfl⟩
  | ok a => exact absurd rfl (h a)

/-- Settles O3: a row's mask fixes the fields its operation checks, and what decodes lies in a row. -/
theorem opcodeMapIsTheDecoder : Obligations.OpcodeMapIsTheDecoder := by
  refine ⟨fun r => ⟨?_, ?_, ?_, ?_, ?_, ?_⟩, fun b d => ⟨?_, ?_⟩, fun d => ⟨?_, ?_, ?_, ?_⟩⟩
  · exact fun h => decodeReq_vread (word_of_vreadRow h)
  · exact fun h => decodeReq_vwrite (word_of_vwriteRow h)
  · exact fun h => decodeReq_select (word_of_selectRow h)
  · exact fun h => decodeReq_fdec (eq_of_fullMask h)
  · exact fun h => decodeReq_perm (eq_of_fullMask h)
  · intro hvread hvwrite hselect hfdec hperm
    refine error_of_not_ok fun i h => ?_
    obtain hrow | hrow | hrow | hrow | hrow := row_of_decodeReq h
    exacts [hvread hrow, hvwrite hrow, hselect hrow, hfdec hrow, hperm hrow]
  · exact fun h => decodeCmd_read (bit_of_masked h 7 rfl)
  · exact fun h => decodeCmd_write (bit_of_masked h 7 rfl) d
  · intro h
    obtain rfl : d = 0x000#11 := eq_of_fullMask h
    rfl
  · intro h
    obtain rfl : d = 0x200#11 := eq_of_fullMask h
    rfl
  · exact fun h => decodeTxn_write (txnKind_of_row h)
  · intro hstatus hread hwrite
    refine error_of_not_ok fun i h => ?_
    obtain hrow | hrow | hrow := row_of_decodeTxn h
    exacts [hstatus hrow, hread hrow, hwrite hrow]

end Sys2Proof.Machine
end

section
/-! PROOFS. Operand assembly (R127) and the requester's side: the assembler's lines (R130) and the pseudo-operations
(R140). -/

namespace Sys2Proof.Machine

/-! ## Operand assembly (R127) -/

theorem cmdByte_toNat (isWrite : Bool) (a : VAddr) :
    (cmdByte isWrite a).toNat = (if isWrite then 0x80 else 0x00) + a.toNat := by
  rw [cmdByte, toNat_concat]
  cases isWrite <;> rfl

theorem devselPayload_toNat (codes : DevCodes) (die : Die) :
    (devselPayload codes die).toNat = (codeOfDie codes die).toNat := by
  rw [devselPayload, toNat_concat, BitVec.toNat_zero, Nat.zero_mul, Nat.zero_add]

theorem floatWord_toNat (b : FpBytes) : (floatWord b).toNat =
    b.b0.toNat * 2 ^ 24 + b.b1.toNat * 2 ^ 16 + b.b2.toNat * 2 ^ 8 + b.b3.toNat := by
  simp only [floatWord, toNat_concat]
  omega

/-- Settles O5: each item is a concatenation in numbers, the payload byte the transaction of `WR_DATA`. -/
theorem operandAssemblyIsExact : Obligations.OperandAssemblyIsExact :=
  ⟨fun a => ⟨cmdByte_toNat false a, cmdByte_toNat true a⟩, fun _ _ => blockMove_wrData, devselPayload_toNat,
    floatWord_toNat, toNat_concat⟩

/-! ## The assembler (R130) -/

theorem assemble_eq_none {line : AsmLine} (h : line.wellFormed = false) : assemble line = none := by
  simp [assemble, h]

theorem wellFormed_vrd_iff (a : Nat) : (AsmLine.vrd a).wellFormed = true ↔ a ≤ 0x7F := by
  simp [AsmLine.wellFormed]

theorem wellFormed_vwr_iff (a d : Nat) : (AsmLine.vwr a d).wellFormed = true ↔ a ≤ 0x7F ∧ d ≤ 0xFF := by
  simp [AsmLine.wellFormed]

theorem wellFormed_sel_iff (k : Nat) : (AsmLine.sel k).wellFormed = true ↔ k ≤ 3 := by
  simp [AsmLine.wellFormed]

theorem wellFormed_fdec_iff (b0 b1 b2 b3 : Nat) : (AsmLine.fdec b0 b1 b2 b3).wellFormed = true ↔
    b0 ≤ 0xFF ∧ b1 ≤ 0xFF ∧ b2 ≤ 0xFF ∧ b3 ≤ 0xFF := by
  simp [AsmLine.wellFormed, and_assoc]

theorem wellFormed_perm_iff (lanes : List Nat) : (AsmLine.perm lanes).wellFormed = true ↔
    lanes.length = 18 ∧ ∀ x ∈ lanes, x < 2 ^ 32 := by
  simp [AsmLine.wellFormed]

/-- A line outside its constraint is refused. -/
theorem assemble_eq_none_of_not {line : AsmLine} {constraint : Prop} (hiff : line.wellFormed = true ↔ constraint)
    (h : ¬ constraint) : assemble line = none :=
  assemble_eq_none (Bool.eq_false_iff.mpr fun hwf => h (hiff.mp hwf))

/-! The word of each row that has a number in it, in numbers. -/

theorem vrdWord_toNat {a : Nat} (ha : a ≤ 0x7F) :
    (reqWord 0 0 (BitVec.ofNat 7 a) 0).toNat = 0x00000000 + a * 2 ^ 8 := by
  simp only [reqWord_toNat, BitVec.ofNat_eq_ofNat, BitVec.toNat_ofNat]
  omega

theorem vwrWord_toNat {a d : Nat} (ha : a ≤ 0x7F) (hd : d ≤ 0xFF) :
    (reqWord 1 0 (BitVec.ofNat 7 a) (BitVec.ofNat 8 d)).toNat = 0x20000000 + a * 2 ^ 8 + d := by
  simp only [reqWord_toNat, BitVec.ofNat_eq_ofNat, BitVec.toNat_ofNat]
  omega

theorem selWord_toNat {k : Nat} (hk : k ≤ 3) :
    (reqWord 2 (BitVec.ofNat 2 k) 0 0).toNat = 0x40000000 + k * 2 ^ 16 := by
  simp only [reqWord_toNat, BitVec.ofNat_eq_ofNat, BitVec.toNat_ofNat]
  omega

theorem assemble_vrd {a : Nat} (ha : a ≤ 0x7F) :
    assemble (.vrd a) = some (plainRequest (reqWord 0 0 (BitVec.ofNat 7 a) 0)) := by
  rw [assemble, if_pos ((wellFormed_vrd_iff a).mpr ha), ← vrdWord_toNat ha, BitVec.ofNat_toNat, BitVec.setWidth_eq]

theorem assemble_vwr {a d : Nat} (ha : a ≤ 0x7F) (hd : d ≤ 0xFF) :
    assemble (.vwr a d) = some (plainRequest (reqWord 1 0 (BitVec.ofNat 7 a) (BitVec.ofNat 8 d))) := by
  rw [assemble, if_pos ((wellFormed_vwr_iff a d).mpr ⟨ha, hd⟩), ← vwrWord_toNat ha hd, BitVec.ofNat_toNat,
    BitVec.setWidth_eq]

theorem assemble_sel {k : Nat} (hk : k ≤ 3) :
    assemble (.sel k) = some (plainRequest (reqWord 2 (BitVec.ofNat 2 k) 0 0)) := by
  rw [assemble, if_pos ((wellFormed_sel_iff k).mpr hk), ← selWord_toNat hk, BitVec.ofNat_toNat, BitVec.setWidth_eq]

/-- The lanes of an assembled PERM are the numbers written, when there are 18 and each fits a lane. -/
theorem toNat_lanes {lanes : List Nat} (hlength : lanes.length = 18) (hrange : ∀ x ∈ lanes, x < 2 ^ 32) :
    (Vector.ofFn fun j : Fin 18 => BitVec.ofNat 32 (lanes.getD j 0)).toList.map BitVec.toNat = lanes := by
  refine List.ext_getElem (by simp [hlength]) fun j hj hj' => ?_
  have hfits : lanes[j] < 4294967296 := hrange _ (List.getElem_mem hj')
  simpa [hj'] using hfits

/-- Settles O6: an accepted line's request by the equation of its kind, a refused one by its constraint. -/
theorem assemblerLinesEncode : Obligations.AssemblerLinesEncode := by
  refine ⟨fun a ha => ?_, fun a d ha hd => ?_, fun k hk => ?_, fun b0 b1 b2 b3 h0 h1 h2 h3 => ?_,
    fun lanes hlength hrange => ?_, fun _ => assemble_eq_none, fun a ha => ?_, fun a d h => ?_, fun k hk => ?_,
    fun b0 b1 b2 b3 h => ?_, fun lanes h => ?_⟩
  · exact ⟨_, assemble_vrd ha, (vrdWord_toNat ha).trans (Nat.zero_add _), decodeReq_vread rfl⟩
  · exact ⟨_, assemble_vwr ha hd, vwrWord_toNat ha hd, decodeReq_vwrite rfl⟩
  · exact ⟨_, assemble_sel hk, selWord_toNat hk, decodeReq_select rfl⟩
  · exact ⟨_, if_pos ((wellFormed_fdec_iff b0 b1 b2 b3).mpr ⟨h0, h1, h2, h3⟩), rfl, decodeReq_fdec rfl⟩
  · exact ⟨_, if_pos ((wellFormed_perm_iff lanes).mpr ⟨hlength, hrange⟩), rfl, decodeReq_perm rfl,
      toNat_lanes hlength hrange⟩
  · exact assemble_eq_none_of_not (wellFormed_vrd_iff a) (by omega)
  · exact assemble_eq_none_of_not (wellFormed_vwr_iff a d) (by omega)
  · exact assemble_eq_none_of_not (wellFormed_sel_iff k) (by omega)
  · exact assemble_eq_none_of_not (wellFormed_fdec_iff b0 b1 b2 b3) (by omega)
  · refine assemble_eq_none_of_not (wellFormed_perm_iff lanes) fun ⟨hlength, hrange⟩ => ?_
    obtain hne | ⟨x, hx, hbig⟩ := h
    · exact hne hlength
    · exact (hrange x hx).not_ge hbig

/-! ## The pseudo-operations (R140) -/

theorem find_failed_eq_none {had : List Response} (h : ∀ r ∈ had, r.code = .ok) :
    had.find? (·.code != .ok) = none := by
  simpa [List.find?_eq_none] using h

section
variable {had : List Response} (hok : ∀ r ∈ had, r.code = .ok)
include hok

theorem nextOfPseudo_rd16 (a : Nat) : nextOfPseudo (.rd16 a) had = nextRd16 a had := by
  rw [nextOfPseudo, find_failed_eq_none hok]

theorem nextOfPseudo_rdf (a : Nat) : nextOfPseudo (.rdf a) had = nextRdf a had := by
  rw [nextOfPseudo, find_failed_eq_none hok]

theorem nextOfPseudo_wrall (a d : Nat) : nextOfPseudo (.wrall a d) had = nextWrall a d had := by
  rw [nextOfPseudo, find_failed_eq_none hok]

/-- The first response that is not `OK` stops the pseudo-operation with its code. -/
theorem nextOfPseudo_failed {r : Response} (hr : r.code ≠ .ok) (p : Pseudo) :
    nextOfPseudo p (had ++ [r]) = .stopped r.code := by
  have hfind : (had ++ [r]).find? (·.code != .ok) = some r := by
    simp [List.find?_append, find_failed_eq_none hok, hr]
  unfold nextOfPseudo
  rw [hfind]

end

/-- Settles O7: each expansion read off its own list of requests, which is followed as long as every code is `OK`. -/
theorem pseudoOperationsExpand : Obligations.PseudoOperationsExpand := by
  refine ⟨?_, ?_, ?_, fun p had r hok hr => nextOfPseudo_failed hok hr p⟩
  · intro a r0 r1 h l h0 h1 hhi hlo
    refine ⟨?_, ?_, ?_⟩ <;> rw [nextOfPseudo_rd16 (by simp [h0, h1])]
    · rfl
    · rfl
    · simp only [nextRd16, hhi, hlo, rawSample]
  · intro a r0 r1 r2 r3 r4 b0 b1 b2 b3 fp h0 h1 h2 h3 h4 hb0 hb1 hb2 hb3 hfp
    refine ⟨?_, ?_, ?_, ?_, ?_, ?_⟩ <;> rw [nextOfPseudo_rdf (by simp [h0, h1, h2, h3, h4])]
    · rfl
    · rfl
    · rfl
    · rfl
    · simp only [nextRdf, hb0, hb1, hb2, hb3]
    · simp only [nextRdf, hfp]
  · intro a d had hok
    rw [nextOfPseudo_wrall hok]
    refine ⟨?_, ?_, ?_, ?_, ?_, ?_, ?_⟩ <;> intro hlength <;> simp [nextWrall, hlength]

end Sys2Proof.Machine
end

section
/-! PROOFS. The handshake family (40_handshake.md), one step at a time: bus safety of the whole trace (R179, R180),
acceptance in `IDLE` (R151), the phases (R152 to R164) and the primitives they issue (R174 to R176). -/

namespace Sys2Proof.Machine

/-! ## Bus safety (R179, R180) -/

/-- Settles O48: `step_busSafe` keeps the whole predicate, and both safety rules are parts of it. -/
theorem stepKeepsTheBusSafe : Obligations.StepKeepsTheBusSafe := by
  intro s t hsafe h
  have ht := step_busSafe hsafe h
  obtain ⟨⟨hwrites, hreads, -⟩, -⟩ := (busSafe_iff t).mp ht
  exact ⟨ht, hwrites, hreads⟩

/-! ## The block's turn in `IDLE` (R151) -/

/-- Settles O8: `step_offered`. -/
theorem stepRunsTheOfferedRequest : Obligations.StepRunsTheOfferedRequest := fun _ _ _ _ _ => step_offered

/-- Settles O13: an empty port leaves the block's turn nothing to do. -/
theorem idleStepWithoutRequestChangesNothing : Obligations.IdleStepWithoutRequestChangesNothing := by
  intro s s0 hturn hidle hport
  obtain ⟨hblk, hport0, -⟩ := blockTurn_keeps hturn
  rw [step_blockTurn hturn]
  simp only [blockMove, hblk, hidle, acceptMove, hport0, hport, runMove]

section
variable {s : State} (hidle : s.blk.phase = .idle)
include hidle

theorem exec_vread_idle (a : VAddr) : exec (.vread a) s =
    .next (s.setBlk { s.blk with op := some .vread, addr := some a, phase := .rdStaleStat }) :=
  accept_idle hidle _

theorem exec_vwrite_idle (a : VAddr) (d : Byte) : exec (.vwrite a d) s = .next (s.setBlk
    { s.blk with op := some .vwrite, addr := some a, data := some d, phase := .wrPollTx1, pcnt := 0 }) :=
  accept_idle hidle _

theorem exec_select_die {dev : BitVec 2} {die : Die} (hdie : dieOfId dev = some die) : exec (.select dev) s =
    .next (s.setBlk { s.blk with
      op := some .select
      dev := some dev
      addr := some devselAddr
      data := some (devselPayload s.params.devCode die)
      phase := .wrPollTx1
      pcnt := 0 }) := by
  rw [exec, execSelect, accept_idle hidle, hdie]

theorem exec_select_noDie {dev : BitVec 2} (hdie : dieOfId dev = none) :
    exec (.select dev) s = .next (s.reject .invalidDevice) := by
  rw [exec, execSelect, accept_idle hidle, hdie]

end

/-- Settles O14: the acceptance clauses, SELECT's for each die. -/
theorem handshakeRequestsAreAccepted : Obligations.HandshakeRequestsAreAccepted := by
  refine fun s hidle => ⟨exec_vread_idle hidle, exec_vwrite_idle hidle, fun dev code hdie => ?_⟩
  obtain ⟨rfl, rfl⟩ | ⟨rfl, rfl⟩ | ⟨rfl, rfl⟩ := hdie
  · exact exec_select_die (die := .dev1) hidle rfl
  · exact exec_select_die (die := .dev2) hidle rfl
  · exact exec_select_die (die := .dev3) hidle rfl

/-! ## The rule of each phase -/

section
variable {s : State}

theorem afterStatus_stale (hp : s.blk.phase = .rdStaleStat) (ans : BusAnswer) :
    s.afterStatus ans = s.phaseStaleStat ans := by
  simp only [State.afterStatus, hp]

theorem afterStatus_outside (hstale : s.blk.phase ≠ .rdStaleStat) (hpoll : s.blk.phase.isPolling = false)
    (ans : BusAnswer) : s.afterStatus ans = s := by
  unfold State.afterStatus
  cases hp : s.blk.phase with
  | rdStaleStat => exact absurd hp hstale
  | rdPollTx | rdPollRx | wrPollTx1 | wrPollTx2 => simp [hp, Phase.isPolling] at hpoll
  | _ => rfl

theorem afterRead_discard (hp : s.blk.phase = .rdStaleDiscard) (ans : BusAnswer) :
    s.afterRead ans = .next (s.phaseAdvance .rdPollTx ans) := by
  simp only [State.afterRead, hp]

theorem afterRead_fetch_err (hp : s.blk.phase = .rdFetch) (info : TErr) (reached : Bool) :
    s.afterRead (.err info reached) = .next (s.abort .transportError 0 (some info)) := by
  simp only [State.afterRead, hp]

theorem afterRead_fetch_ok (hp : s.blk.phase = .rdFetch) (v : Byte) : s.afterRead (.ok v) = s.complete (some v) := by
  simp only [State.afterRead, hp]

theorem afterRead_outside (hdiscard : s.blk.phase ≠ .rdStaleDiscard) (hfetch : s.blk.phase ≠ .rdFetch)
    (ans : BusAnswer) : s.afterRead ans = .next s := by
  unfold State.afterRead
  cases hp : s.blk.phase with
  | rdStaleDiscard => exact absurd hp hdiscard
  | rdFetch => exact absurd hp hfetch
  | _ => rfl

theorem afterWrite_rdCmd (hp : s.blk.phase = .rdCmd) (ans : BusAnswer) :
    s.afterWrite ans = .next (s.phaseAdvance .rdPollRx ans) := by
  simp only [State.afterWrite, hp]

theorem afterWrite_wrCmd (hp : s.blk.phase = .wrCmd) (ans : BusAnswer) :
    s.afterWrite ans = .next (s.phaseAdvance .wrPollTx2 ans) := by
  simp only [State.afterWrite, hp]

theorem afterWrite_wrData_err (hp : s.blk.phase = .wrData) (info : TErr) (reached : Bool) :
    s.afterWrite (.err info reached) = .next (s.abort .transportError 0 (some info)) := by
  simp only [State.afterWrite, hp]

theorem afterWrite_wrData_ok (hp : s.blk.phase = .wrData) (v : Byte) : s.afterWrite (.ok v) = s.complete none := by
  simp only [State.afterWrite, hp]

theorem afterWrite_outside (hrd : s.blk.phase ≠ .rdCmd) (hwr : s.blk.phase ≠ .wrCmd) (hdata : s.blk.phase ≠ .wrData)
    (ans : BusAnswer) : s.afterWrite ans = .next s := by
  unfold State.afterWrite
  cases hp : s.blk.phase with
  | rdCmd => exact absurd hp hrd
  | wrCmd => exact absurd hp hwr
  | wrData => exact absurd hp hdata
  | _ => rfl

theorem completionSel_vread {b : Block} (hop : b.op = some .vread) : b.completionSel = .ok b.sel := by
  rw [Block.completionSel, hop]

theorem completionSel_vwrite {b : Block} {a : VAddr} (hop : b.op = some .vwrite) (haddr : b.addr = some a) :
    b.completionSel = .ok (if a = devselAddr then selNone else b.sel) := by
  rw [Block.completionSel, hop, haddr]

theorem completionSel_select {b : Block} {dev : BitVec 2} (hop : b.op = some .select) (hdev : b.dev = some dev) :
    b.completionSel = .ok dev := by
  rw [Block.completionSel, hop, hdev]

end

/-! ## A primitive is its transaction, then the rule of the phase -/

section
variable {s s1 : State} {ans : BusAnswer}

theorem exec_status (h : s.busReadStatus = (ans, s1)) : exec .busRdStatus s = .next (s1.afterStatus ans) := by
  rw [exec, execBusRdStatus, h]

theorem exec_read (h : s.busReadRead = (ans, s1)) : exec .busRdRead s = s1.afterRead ans := by
  rw [exec, execBusRdRead, h]

theorem exec_write {b : Byte} (h : s.busWrite b = (ans, s1)) : exec (.busWrWrite b) s = s1.afterWrite ans := by
  rw [exec, execBusWrWrite, h]

theorem status_txn (h : s.busReadStatus = (ans, s1)) : TxnEffect (readEvent .status ans) s s1 := by
  simpa only [h] using busReadStatus_effect s

theorem read_txn (h : s.busReadRead = (ans, s1)) : TxnEffect (readEvent .read ans) s s1 := by
  simpa only [h] using busReadRead_effect s

theorem write_txn {b : Byte} (h : s.busWrite b = (ans, s1)) : TxnEffect (writeEvent b ans) s s1 := by
  simpa only [h] using busWrite_effect b s

end

section
variable {s s1 : State} {e : Event} (htxn : TxnEffect e s s1)
include htxn

/-- `s1` ends as `Abort` says (R165), in terms of the state before the transaction. -/
theorem abort_after_txn (code : RespCode) (polls : Nat) (info : Option TErr) : s1.abort code polls info = { s1 with
    blk := { s.blk with phase := .idle, pcnt := 0, lasterr := ⟨code, s.blk.phase, polls, info⟩ }
    responses := ⟨code, none, none, none, s.blk.phase, polls, info⟩ :: s.responses } := by
  rw [← htxn.blk, ← htxn.responses]; rfl

theorem enter_after_txn (p : Phase) : s1.enter p = { s1 with blk := { s.blk with phase := p, pcnt := 0 } } := by
  rw [← htxn.blk]; rfl

/-- `s1` ends as `Complete` says (R166), in terms of the state before the transaction. -/
theorem complete_after_txn {sel : BitVec 2} (hsel : s.blk.completionSel = .ok sel) (rdata : Option Byte) :
    s1.complete rdata = .next { s1 with
      blk := { s.blk with phase := .idle, pcnt := 0, sel := sel, lasterr := ⟨.ok, .idle, 0, none⟩ }
      responses := okResponse rdata :: s.responses } := by
  rw [← htxn.blk] at hsel
  rw [complete_of_ok hsel, ← htxn.blk, ← htxn.responses]; rfl

theorem phaseAdvance_err (next : Phase) (info : TErr) (reached : Bool) :
    s1.phaseAdvance next (.err info reached) = afterFailure s s1 info :=
  abort_after_txn htxn .transportError 0 (some info)

theorem phaseAdvance_ok (next : Phase) (v : Byte) :
    s1.phaseAdvance next (.ok v) = { s1 with blk := { s.blk with phase := next, pcnt := 0 } } :=
  enter_after_txn htxn next

end

/-! ## The polling loops (R152) -/

/-- A poll of any of the four loops is `PollStep`. -/
theorem exec_poll {s s1 : State} {ans : BusAnswer} {f : Byte → Bool} {next : Phase} {c : RespCode}
    (hp : PollLoop s.blk.phase f next c) (h : s.busReadStatus = (ans, s1)) :
    exec .busRdStatus s = .next (s1.pollStep f next c ans) := by
  rw [← (status_txn h).blk] at hp
  rw [exec_status h, afterStatus_poll hp]

section
variable {s : State} {f : Byte → Bool} {v : Byte} (next : Phase) (c : RespCode)

theorem pollStep_ready (hv : f v = true) : s.pollStep f next c (.ok v) = s.enter next := if_pos hv

theorem pollStep_timeout (hv : ¬ f v = true) (hn : s.params.pollLimit = .reads (s.blk.pcnt + 1)) :
    s.pollStep f next c (.ok v) = s.abort c (s.blk.pcnt + 1) none := by
  rw [State.pollStep, if_neg hv, if_pos hn]

theorem pollStep_retry (hv : ¬ f v = true) (hn : s.params.pollLimit ≠ .reads (s.blk.pcnt + 1)) :
    s.pollStep f next c (.ok v) = (s.setBlk { s.blk with pcnt := s.blk.pcnt + 1 }).emit .dly := by
  rw [State.pollStep, if_neg hv, if_neg hn]

end

theorem pollRule_of_pollLoop {p next : Phase} {f : Byte → Bool} {c : RespCode} {bit : Nat} {want : Bool}
    (hp : PollLoop p f next c) (hbit : ∀ v, f v = true ↔ v.getLsbD bit = want) : PollRule p bit want next c := by
  intro s s1 hphase
  subst hphase
  refine ⟨fun info reached h => ?_, fun v h hv => ?_, fun v h hv hn => ?_, fun v h hv hn => ?_⟩ <;>
    rw [exec_poll hp h] <;> have htxn := status_txn h
  · rw [State.pollStep, abort_after_txn htxn, htxn.blk]
  · rw [pollStep_ready next c ((hbit v).mpr hv), enter_after_txn htxn]
  · rw [← htxn.params, ← htxn.blk] at hn
    rw [pollStep_timeout next c (mt (hbit v).mp hv) hn, abort_after_txn htxn, htxn.blk]
  · rw [← htxn.params, ← htxn.blk] at hn
    rw [pollStep_retry next c (mt (hbit v).mp hv) hn, htxn.blk]; rfl

theorem txReady_iff (v : Byte) : txReady v = true ↔ v.getLsbD 1 = false := by simp [txReady]

theorem txReady_eq_false_iff (v : Byte) : txReady v = false ↔ v.getLsbD 1 = true := by simp [txReady]

/-- Settles O23: each loop is `PollStep` with its ready condition, a bit of STATUS. -/
theorem pollingPhasesFollowPollStep : Obligations.PollingPhasesFollowPollStep :=
  ⟨pollRule_of_pollLoop .readTx txReady_iff, pollRule_of_pollLoop .readRx fun _ => Iff.rfl,
    pollRule_of_pollLoop .writeAddr txReady_iff, pollRule_of_pollLoop .writeData txReady_iff⟩

/-! ## The other phases -/

/-- Settles O24: `RD_STALE_STAT` branches on bit 0 of the byte read. -/
theorem staleStatusCheck : Obligations.StaleStatusCheck := by
  intro s s1 hp
  refine ⟨fun info reached h => ?_, fun v h hv => ?_, fun v h hv => ?_⟩ <;>
    rw [exec_status h, afterStatus_stale ((status_txn h).blk ▸ hp), State.phaseStaleStat]
  · exact congrArg _ (abort_after_txn (status_txn h) .transportError 0 (some info))
  · rw [if_pos (show rxReady v = true from hv), ← (status_txn h).blk]; rfl
  · rw [if_neg (show ¬ rxReady v = true from Bool.eq_false_iff.mp hv), enter_after_txn (status_txn h)]

/-- Settles O25: each of the three phases is `phaseAdvance` to its polling loop. -/
theorem singleTransactionPhasesAdvance : Obligations.SingleTransactionPhasesAdvance := by
  refine fun s s1 => ⟨fun hp => ⟨fun info reached h => ?_, fun v h => ?_⟩,
    fun b hp => ⟨fun info reached h => ?_, fun v h => ?_⟩, fun b hp => ⟨fun info reached h => ?_, fun v h => ?_⟩⟩
  · rw [exec_read h, afterRead_discard ((read_txn h).blk ▸ hp), phaseAdvance_err (read_txn h)]
  · rw [exec_read h, afterRead_discard ((read_txn h).blk ▸ hp), phaseAdvance_ok (read_txn h)]
  · rw [exec_write h, afterWrite_rdCmd ((write_txn h).blk ▸ hp), phaseAdvance_err (write_txn h)]
  · rw [exec_write h, afterWrite_rdCmd ((write_txn h).blk ▸ hp), phaseAdvance_ok (write_txn h)]
  · rw [exec_write h, afterWrite_wrCmd ((write_txn h).blk ▸ hp), phaseAdvance_err (write_txn h)]
  · rw [exec_write h, afterWrite_wrCmd ((write_txn h).blk ▸ hp), phaseAdvance_ok (write_txn h)]

/-- Settles O26: the byte READ gave completes the VREAD, which keeps `S.sel`. -/
theorem fetchCompletesTheRead : Obligations.FetchCompletesTheRead := by
  refine fun s s1 hp hop => ⟨fun info reached h => ?_, fun v h => ?_⟩
  · rw [exec_read h, afterRead_fetch_err ((read_txn h).blk ▸ hp), abort_after_txn (read_txn h)]; rfl
  · rw [exec_read h, afterRead_fetch_ok ((read_txn h).blk ▸ hp),
      complete_after_txn (read_txn h) (completionSel_vread hop)]

/-- Settles O27: the payload's answer completes the write, with `S.sel` as the latched operation says. -/
theorem payloadCompletesTheWrite : Obligations.PayloadCompletesTheWrite := by
  refine fun s s1 b hp => ⟨fun info reached h => ?_, fun v sel h hop => ?_⟩
  · rw [exec_write h, afterWrite_wrData_err ((write_txn h).blk ▸ hp), abort_after_txn (write_txn h)]; rfl
  · have hsel : s.blk.completionSel = .ok sel := by
      obtain ⟨hop, hdev⟩ | ⟨hop, haddr, rfl⟩ | ⟨a, hop, haddr, hne, rfl⟩ := hop
      · exact completionSel_select hop hdev
      · exact completionSel_vwrite hop haddr
      · rw [completionSel_vwrite hop haddr, if_neg (show a ≠ devselAddr from hne)]
    rw [exec_write h, afterWrite_wrData_ok ((write_txn h).blk ▸ hp), complete_after_txn (write_txn h) hsel]

end Sys2Proof.Machine
end

section
/-! PROOFS. What one step records: the frame of a bus primitive (R174 to R176), one transaction a step (R150) and the
delay of a failed poll (R154). -/

namespace Sys2Proof.Machine

/-! ## The frame of a bus primitive -/

/-- Only a completion writes `S.sel` (R35). -/
theorem busyResult_sel_kept {s1 t : State} {e : Event} (h : BusyResult s1 e t) (hfetch : s1.blk.phase ≠ .rdFetch)
    (hdata : s1.blk.phase ≠ .wrData) : t.blk.sel = s1.blk.sel := by
  cases h with
  | fetched _ _ hp => exact absurd hp hfetch
  | written _ _ hp => exact absurd hp hdata
  | _ => rfl

/-- A step of a busy block goes on polling, with a delay recorded and the poll counted, or it leaves its phase. -/
theorem busyResult_polls_or_leaves {s1 t : State} {e : Event} (hbusy : s1.blk.phase ≠ .idle) (h : BusyResult s1 e t) :
    (s1.blk.phase.isPolling = true ∧ t.blk.phase = s1.blk.phase ∧ t.blk.pcnt = s1.blk.pcnt + 1 ∧
      t.trace = .dly :: s1.trace) ∨
    (t.blk.phase ≠ s1.blk.phase ∧ t.trace = s1.trace) := by
  cases h with
  | retry _ _ _ _ hp => exact .inl ⟨hp.isPolling, rfl, rfl, rfl⟩
  | ready _ _ _ _ hp => exact .inr ⟨hp.next_ne, rfl⟩
  | stale _ hp => exact .inr ⟨by simp [hp], rfl⟩
  | clean _ hp => exact .inr ⟨by simp [hp], rfl⟩
  | discarded _ hp => exact .inr ⟨by simp [hp], rfl⟩
  | readSent _ hp => exact .inr ⟨by simp [hp], rfl⟩
  | writeSent _ hp => exact .inr ⟨by simp [hp], rfl⟩
  | failed => exact .inr ⟨hbusy.symm, rfl⟩
  | timeout => exact .inr ⟨hbusy.symm, rfl⟩
  | fetched => exact .inr ⟨hbusy.symm, rfl⟩
  | written => exact .inr ⟨hbusy.symm, rfl⟩

/-- Outside the polling loops a phase rule records nothing. -/
theorem busyResult_trace_kept {s1 t : State} {e : Event} (h : BusyResult s1 e t)
    (hpoll : s1.blk.phase.isPolling = false) : t.trace = s1.trace := by
  cases h with
  | retry _ _ _ _ hp => simp [hp.isPolling] at hpoll
  | _ => rfl

/-- A primitive leads from `s`, with its transaction made at `s1`, to `t`: what neither the transaction nor a phase rule
touches. -/
structure PrimitiveFrame (s s1 t : State) : Prop where
  params : t.params = s.params
  port : t.port = s.port
  inputs : t.inputs = s.inputs
  dev : t.dev = s1.dev
  latch : s.blk.sameLatch t.blk

theorem TxnEffect.frame {e : Event} {s s1 : State} (h : TxnEffect e s s1) : PrimitiveFrame s s1 s1 :=
  ⟨h.params, h.port, h.inputs, rfl, Block.sameLatch_of_eq h.blk⟩

theorem BusyResult.frame {e : Event} {s s1 t : State} (h : BusyResult s1 e t) (htxn : TxnEffect e s s1) :
    PrimitiveFrame s s1 t where
  params := (busyResult_keeps h).2.trans htxn.params
  port := (busyResult_port h).trans htxn.port
  inputs := (busyResult_inputs h).trans htxn.inputs
  dev := (busyResult_keeps h).1
  latch := htxn.blk ▸ busyResult_sameLatch h

/-- A read handshake keeps `S.sel`: it is a VREAD that completes (R166). -/
theorem BusyResult.sel_of_read {s1 t : State} {e : Event} {codes : DevCodes} (h : BusyResult s1 e t)
    (hread : s1.blk.phase.isRead = true) (hok : s1.blk.phase = .rdFetch → s1.blk.latchOk codes = true) :
    t.blk.sel = s1.blk.sel := by
  cases h with
  | fetched _ _ hp hsel => exact completionSel_of_read hread (hok hp) hsel
  | written _ _ hp => simp [hp, Phase.isRead] at hread
  | _ => rfl

/-! ## The three primitives: a row of R167 in a phase that issues them, their transaction alone elsewhere -/

theorem status_completes (s : State) : ∃ t, exec .busRdStatus s = .next t ∧ PrimitiveFrame s s.busReadStatus.2 t ∧
    (t.trace = readEvent .status s.busReadStatus.1 :: s.trace ∨
      t.trace = .dly :: readEvent .status s.busReadStatus.1 :: s.trace) ∧
    t.blk.sel = s.blk.sel ∧
    (s.blk.phase ≠ .rdStaleStat → s.blk.phase.isPolling = false → t = s.busReadStatus.2) := by
  have htxn := busReadStatus_effect s
  refine ⟨_, rfl, ?_⟩
  by_cases hp : s.blk.phase = .rdStaleStat ∨ s.blk.phase.isPolling = true
  · have hresult := afterStatus_result s.busReadStatus.1 (htxn.blk ▸ hp)
    have hfetch : s.blk.phase ≠ .rdFetch := by rintro h; simp [h, Phase.isPolling] at hp
    have hdata : s.blk.phase ≠ .wrData := by rintro h; simp [h, Phase.isPolling] at hp
    exact ⟨hresult.frame htxn, htxn.trace ▸ busyResult_trace hresult,
      htxn.blk ▸ busyResult_sel_kept hresult (htxn.blk ▸ hfetch) (htxn.blk ▸ hdata),
      fun hstale hpoll => absurd hp (by simp [hstale, hpoll])⟩
  · obtain ⟨hstale, hpoll⟩ := not_or.mp hp
    rw [afterStatus_outside (htxn.blk ▸ hstale) (htxn.blk ▸ Bool.eq_false_iff.mpr hpoll)]
    exact ⟨htxn.frame, .inl htxn.trace, by rw [htxn.blk], fun _ _ => rfl⟩

theorem read_completes {s : State} (hok : s.blk.phase = .rdFetch → s.blk.latchOk s.params.devCode = true) :
    ∃ t, exec .busRdRead s = .next t ∧ PrimitiveFrame s s.busReadRead.2 t ∧
      t.trace = readEvent .read s.busReadRead.1 :: s.trace ∧ t.blk.sel = s.blk.sel ∧
      (s.blk.phase ≠ .rdStaleDiscard → s.blk.phase ≠ .rdFetch → t = s.busReadRead.2) := by
  have htxn := busReadRead_effect s
  by_cases hp : s.blk.phase = .rdStaleDiscard ∨ s.blk.phase = .rdFetch
  · have hanswers : Answers (s.busReadRead.2.afterRead s.busReadRead.1) := by
      obtain hdiscard | hfetch := hp
      · rw [afterRead_discard (htxn.blk ▸ hdiscard)]
        exact answers_next _
      · obtain ⟨-, hsel, -⟩ := latchOk_serves (by simp [hfetch]) (hok hfetch)
        exact afterRead_answers (htxn.blk ▸ hsel) _
    obtain ⟨t, ht⟩ := hanswers
    have hresult := afterRead_result _ (htxn.blk ▸ hp) ht
    have hread : s.blk.phase.isRead = true ∧ s.blk.phase.isPolling = false := by
      obtain hp | hp := hp <;> rw [hp] <;> exact ⟨rfl, rfl⟩
    exact ⟨t, ht, hresult.frame htxn, htxn.trace ▸ busyResult_trace_kept hresult (htxn.blk ▸ hread.2),
      htxn.blk ▸ hresult.sel_of_read (htxn.blk ▸ hread.1) (htxn.blk ▸ hok),
      fun hdiscard hfetch => absurd hp (not_or.mpr ⟨hdiscard, hfetch⟩)⟩
  · obtain ⟨hdiscard, hfetch⟩ := not_or.mp hp
    exact ⟨_, afterRead_outside (htxn.blk ▸ hdiscard) (htxn.blk ▸ hfetch) _, htxn.frame, htxn.trace, by rw [htxn.blk],
      fun _ _ => rfl⟩

theorem write_completes {s : State} (b : Byte) (hok : s.blk.phase = .wrData → s.blk.latchOk s.params.devCode = true) :
    ∃ t, exec (.busWrWrite b) s = .next t ∧ PrimitiveFrame s (s.busWrite b).2 t ∧
      t.trace = writeEvent b (s.busWrite b).1 :: s.trace ∧ (s.blk.phase ≠ .wrData → t.blk.sel = s.blk.sel) ∧
      (s.blk.phase ≠ .rdCmd → s.blk.phase ≠ .wrCmd → s.blk.phase ≠ .wrData → t = (s.busWrite b).2) := by
  have htxn := busWrite_effect b s
  by_cases hp : s.blk.phase = .rdCmd ∨ s.blk.phase = .wrCmd ∨ s.blk.phase = .wrData
  · have hanswers : Answers ((s.busWrite b).2.afterWrite (s.busWrite b).1) := by
      obtain hrd | hwr | hdata := hp
      · rw [afterWrite_rdCmd (htxn.blk ▸ hrd)]
        exact answers_next _
      · rw [afterWrite_wrCmd (htxn.blk ▸ hwr)]
        exact answers_next _
      · obtain ⟨-, hsel, -⟩ := latchOk_serves (by simp [hdata]) (hok hdata)
        exact afterWrite_answers (htxn.blk ▸ hsel) _
    obtain ⟨t, ht⟩ := hanswers
    have hresult := afterWrite_result b _ (htxn.blk ▸ hp) ht
    have hphase : s.blk.phase ≠ .rdFetch ∧ s.blk.phase.isPolling = false := by
      obtain hp | hp | hp := hp <;> rw [hp] <;> exact ⟨nofun, rfl⟩
    exact ⟨t, ht, hresult.frame htxn, htxn.trace ▸ busyResult_trace_kept hresult (htxn.blk ▸ hphase.2),
      fun hdata => htxn.blk ▸ busyResult_sel_kept hresult (htxn.blk ▸ hphase.1) (htxn.blk ▸ hdata),
      fun hrd hwr hdata => absurd hp (by simp [hrd, hwr, hdata])⟩
  · obtain ⟨hrd, hwr, hdata⟩ : s.blk.phase ≠ .rdCmd ∧ s.blk.phase ≠ .wrCmd ∧ s.blk.phase ≠ .wrData := by
      simpa only [not_or] using hp
    exact ⟨_, afterWrite_outside (htxn.blk ▸ hrd) (htxn.blk ▸ hwr) (htxn.blk ▸ hdata) _, htxn.frame, htxn.trace,
      fun _ => by rw [htxn.blk], fun _ _ _ => rfl⟩

/-- Settles O28: `status_completes`, `read_completes` and `write_completes`, the frame taken apart. -/
theorem busPrimitivesComplete : Obligations.BusPrimitivesComplete := by
  refine fun s => ⟨?_, fun hok => ?_, fun b hok => ?_⟩
  · obtain ⟨t, ht, ⟨hparams, hport, hinputs, hdev, hop, haddr, hdata, hbdev⟩, htrace, hsel, houtside⟩ :=
      status_completes s
    refine ⟨t, ht, htrace, hparams, hport, hinputs, hdev, hsel, hop, haddr, hdata, hbdev, fun hstale hpoll => ?_⟩
    have heq := houtside hstale hpoll
    exact ⟨heq, heq ▸ (busReadStatus_effect s).blk, heq ▸ (busReadStatus_effect s).responses⟩
  · obtain ⟨t, ht, ⟨hparams, hport, hinputs, hdev, hop, haddr, hdata, hbdev⟩, htrace, hsel, houtside⟩ :=
      read_completes hok
    refine ⟨t, ht, htrace, hparams, hport, hinputs, hdev, hsel, hop, haddr, hdata, hbdev, fun hdiscard hfetch => ?_⟩
    have heq := houtside hdiscard hfetch
    exact ⟨heq, heq ▸ (busReadRead_effect s).blk, heq ▸ (busReadRead_effect s).responses⟩
  · obtain ⟨t, ht, ⟨hparams, hport, hinputs, hdev, hop, haddr, hdata, hbdev⟩, htrace, hsel, houtside⟩ :=
      write_completes b hok
    refine ⟨t, ht, htrace, hparams, hport, hinputs, hdev, hop, haddr, hdata, hbdev, hsel, fun hrd hwr hwd => ?_⟩
    have heq := houtside hrd hwr hwd
    exact ⟨heq, heq ▸ (busWrite_effect b s).blk, heq ▸ (busWrite_effect b s).responses⟩

/-! ## One transaction a step (R7, R150) -/

theorem busyResult_isTxn {s1 t : State} {e : Event} (h : BusyResult s1 e t) : e.isTxn = true := by
  cases h <;> rfl

/-- Where another agent's input is next, it is not the block's turn. -/
theorem not_blockTurn {s : State} {i : Input} {more : List Input} (hinputs : s.inputs = i :: more)
    (hi : i ≠ .blockMoves) (s0 : State) : ¬ s.blockTurn s0 := by
  rintro (⟨hnone, -⟩ | ⟨more', hblock, -⟩)
  · simp [hnone] at hinputs
  · rw [hblock] at hinputs
    cases hinputs
    exact hi rfl

/-- Settles O41: the cases of `StepResult`, of which only `busy` makes a transaction. -/
theorem stepMakesAtMostOneTransaction : Obligations.StepMakesAtMostOneTransaction := by
  intro s t h
  cases step_result h with
  | waits _ hturn hidle => exact .inl ⟨.inl hidle, blockTurn_trace hturn⟩
  | rejects _ _ _ _ hturn hidle =>
    have hkept := blockTurn_trace hturn
    exact .inl ⟨.inl hidle, hkept⟩
  | accepts _ _ _ _ _ hturn hidle _ _ haccept =>
    have hkept := blockTurn_trace hturn
    exact .inl ⟨.inl hidle, (acceptResult_trace haccept).trans hkept⟩
  | busy s0 _ hturn hbusy hstep =>
    obtain ⟨e, s1, htxn, -, hresult⟩ := hstep
    have htrace : s1.trace = e :: s.trace := htxn.trace.trans (by rw [blockTurn_trace hturn])
    exact .inr ⟨hbusy, ⟨s0, hturn⟩, e, busyResult_isTxn hresult, htrace ▸ busyResult_trace hresult⟩
  | device _ _ _ _ hturn =>
    have hkept := deviceTurn_trace hturn
    obtain ⟨more, hinputs, -⟩ := hturn
    exact .inl ⟨.inr (not_blockTurn hinputs nofun), hkept⟩
  | changes _ _ hinputs => exact .inl ⟨.inr (not_blockTurn hinputs nofun), rfl⟩
  | offers _ _ hinputs => exact .inl ⟨.inr (not_blockTurn hinputs nofun), rfl⟩
  | resets _ hinputs => exact .inl ⟨.inr (not_blockTurn hinputs nofun), rfl⟩

/-! ## The delay of a failed poll (R154) -/

/-- A delay is the second event of its step. -/
theorem no_delay_of_length {s t : State} (h : t.trace.length ≤ s.trace.length + 1) :
    ¬ ∃ e, t.trace = .dly :: e :: s.trace := by
  rintro ⟨e, heq⟩
  simp [heq] at h

/-- Settles O42: by `busyResult_polls_or_leaves` where the block is busy; no other step records a delay or counts a poll. -/
theorem delayFollowsExactlyFailedPolls : Obligations.DelayFollowsExactlyFailedPolls := by
  intro s t h
  have idle_polls_not : s.blk.phase = .idle → s.blk.phase.isPolling ≠ true := by
    rintro hidle
    simp [hidle, Phase.isPolling]
  cases step_blockStep h with
  | still _ hsame htrace => exact iff_of_false (no_delay_of_length (by simp [htrace])) (by simp [hsame.blk])
  | rejects _ hsame htrace hidle =>
    exact iff_of_false (no_delay_of_length (by simp [htrace]))
      fun hpoll => idle_polls_not hidle hpoll.1
  | accepts _ _ _ _ _ htrace hidle _ _ haccept =>
    exact iff_of_false (no_delay_of_length (by simp [acceptResult_trace haccept, htrace]))
      fun hpoll => idle_polls_not hidle hpoll.1
  | busy e s1 _ hsame htrace hbusy hresult =>
    rw [← hsame.blk] at hbusy
    obtain ⟨hpoll, hphase, hpcnt, hdelay⟩ | ⟨hphase, hkept⟩ := busyResult_polls_or_leaves hbusy hresult
    · exact iff_of_true ⟨e, by rw [hdelay, htrace]⟩ ⟨hsame.blk ▸ hpoll, hsame.blk ▸ hphase, hsame.blk ▸ hpcnt⟩
    · exact iff_of_false (no_delay_of_length (by simp [hkept, htrace])) fun hpoll => hphase (hsame.blk ▸ hpoll.2.1)
  | resets _ _ _ htrace =>
    exact iff_of_false (no_delay_of_length (by simp [htrace]))
      fun ⟨hpoll, hphase, _⟩ => idle_polls_not hphase.symm hpoll

end Sys2Proof.Machine
end

section
/-! PROOFS. Termination (R183): a measure of the steps an operation still has, which every step of the block lowers. -/

namespace Sys2Proof.Machine

/-! ## Runs of a known length -/

theorem run_trans {M : Host.Core} {m n : Nat} {s t : M.State} {o : Host.Outcome M.State M.Fault M.Refusal}
    (h : M.run m s = .next t) (h' : M.run n t = o) : M.run (m + n) s = o := by
  induction m generalizing s with
  | zero => cases h; rwa [Nat.zero_add]
  | succ m ih =>
    cases hstep : M.step s with
    | next s' =>
      rw [run_succ hstep] at h
      rw [Nat.succ_add, run_succ hstep]
      exact ih h
    | fault r => rw [Host.Core.run, hstep] at h; cases h
    | refused r => rw [Host.Core.run, hstep] at h; cases h

theorem runFor_trans {m n : Nat} {s t u : State} (h : runFor m s = .next t) (h' : runFor n t = .next u) :
    runFor (m + n) s = .next u :=
  run_trans (M := Sys2Proof.core) h h'

theorem runFor_one {s t : State} (h : step s = .next t) : runFor 1 s = .next t := runFor_succ h 0

/-! ## The measure -/

/-- The most steps an operation in this state has, with `POLL_LIMIT` = `n` (R183): a poll of each loop at its bound, and
each other phase once. -/
def Block.stepsLeft (n : Nat) (b : Block) : Nat :=
  match b.phase with
  | .idle => 0
  | .rdStaleStat => 2 * n + 4
  | .rdStaleDiscard => 2 * n + 3
  | .rdPollTx => 2 * n + 2 - b.pcnt
  | .rdCmd => n + 2
  | .rdPollRx => n + 1 - b.pcnt
  | .rdFetch => 1
  | .wrPollTx1 => 2 * n + 2 - b.pcnt
  | .wrCmd => n + 2
  | .wrPollTx2 => n + 1 - b.pcnt
  | .wrData => 1

/-- Between two polls of a loop fewer than `n` have been made (R34). -/
def Block.countBelow (n : Nat) (b : Block) : Prop := b.phase.isPolling = true → b.pcnt < n

theorem Block.countBelow_of_zero {n : Nat} {b : Block} (hn : 1 ≤ n) (hb : b.pcnt = 0) : b.countBelow n :=
  fun _ => by omega

theorem Block.countBelow_of_not_polling {n : Nat} {b : Block} (hb : b.phase.isPolling = false) : b.countBelow n :=
  fun hpoll => by simp [hb] at hpoll

theorem PollLoop.next_isPolling {p next : Phase} {f : Byte → Bool} {c : RespCode} (h : PollLoop p f next c) :
    next.isPolling = false := by cases h <;> rfl

theorem PollLoop.next_busy {p next : Phase} {f : Byte → Bool} {c : RespCode} (h : PollLoop p f next c) :
    next ≠ .idle := by cases h <;> decide

section
variable {n : Nat} {b : Block} {p next : Phase} {f : Byte → Bool} {c : RespCode}
  (hp : PollLoop p f next c) (hphase : b.phase = p) (hlt : b.pcnt < n)
include hp hphase hlt

/-- The phase after a loop has fewer steps left than the loop has at its last poll. -/
theorem PollLoop.stepsLeft_ready : Block.stepsLeft n { b with phase := next, pcnt := 0 } < b.stepsLeft n := by
  cases hp <;> simp only [Block.stepsLeft, hphase] <;> omega

theorem PollLoop.stepsLeft_retry : Block.stepsLeft n { b with pcnt := b.pcnt + 1 } < b.stepsLeft n := by
  cases hp <;> simp only [Block.stepsLeft, hphase] <;> omega

end

theorem Block.stepsLeft_pos {n : Nat} {b : Block} (hbusy : b.phase ≠ .idle) (hcount : b.countBelow n) :
    0 < b.stepsLeft n := by
  unfold Block.stepsLeft
  cases hp : b.phase with
  | idle => exact absurd hp hbusy
  | rdPollTx | rdPollRx | wrPollTx1 | wrPollTx2 =>
    have hlt := hcount (by rw [hp]; rfl)
    simp only
    omega
  | _ => simp

/-- A row of R167 ends the operation with one response, or brings it nearer to its end. -/
theorem busyResult_descends {n : Nat} {s1 t : State} {e : Event} (hlimit : s1.params.pollLimit = .reads n) (hn : 1 ≤ n)
    (hcount : s1.blk.countBelow n) (h : BusyResult s1 e t) :
    (t.blk.phase = .idle ∧ ∃ resp, t.responses = resp :: s1.responses) ∨
    (t.blk.phase ≠ .idle ∧ t.responses = s1.responses ∧ t.blk.countBelow n ∧
      t.blk.stepsLeft n < s1.blk.stepsLeft n) := by
  cases h with
  | failed => exact .inl ⟨rfl, _, rfl⟩
  | timeout => exact .inl ⟨rfl, _, rfl⟩
  | fetched => exact .inl ⟨rfl, _, rfl⟩
  | written => exact .inl ⟨rfl, _, rfl⟩
  | stale _ hp => exact .inr ⟨nofun, rfl, Block.countBelow_of_not_polling rfl, by simp [Block.stepsLeft, hp]⟩
  | clean _ hp => exact .inr ⟨nofun, rfl, Block.countBelow_of_zero hn rfl, by simp [Block.stepsLeft, hp]⟩
  | discarded _ hp => exact .inr ⟨nofun, rfl, Block.countBelow_of_zero hn rfl, by simp [Block.stepsLeft, hp]⟩
  | readSent _ hp => exact .inr ⟨nofun, rfl, Block.countBelow_of_zero hn rfl, by simp [Block.stepsLeft, hp]⟩
  | writeSent _ hp => exact .inr ⟨nofun, rfl, Block.countBelow_of_zero hn rfl, by simp [Block.stepsLeft, hp]⟩
  | ready _ _ _ _ hp =>
    exact .inr ⟨hp.next_busy, rfl, Block.countBelow_of_not_polling hp.next_isPolling,
      hp.stepsLeft_ready rfl (hcount hp.isPolling)⟩
  | retry _ _ _ _ hp _ hne =>
    have hlt := hcount hp.isPolling
    have hne' : n ≠ s1.blk.pcnt + 1 := fun heq => hne (heq ▸ hlimit)
    have hbelow : s1.blk.pcnt + 1 < n := by omega
    have hbusy : s1.blk.phase ≠ .idle := fun hidle => by simpa [hidle, Phase.isPolling] using hp.isPolling
    exact .inr ⟨hbusy, rfl, fun _ => hbelow, hp.stepsLeft_retry rfl hlt⟩

/-! ## An operation under way -/

/-- Only the block moves, polling is bounded by `n`, and what the phases read is latched. -/
structure Underway (n : Nat) (s : State) : Prop where
  inputs : s.inputs = []
  limit : s.params.pollLimit = .reads n
  positive : 1 ≤ n
  latch : s.blk.latchOk s.params.devCode = true
  count : s.blk.countBelow n

/-- The block's step, whatever the environment: it ends the operation, or the operation is under way with fewer steps
left. -/
theorem Underway.step {n : Nat} {s : State} (h : Underway n s) (hbusy : s.blk.phase ≠ .idle) :
    ∃ t, Machine.step s = .next t ∧ t.port = s.port ∧
      ((t.blk.phase = .idle ∧ ∃ resp, t.responses = resp :: s.responses) ∨
        (Underway n t ∧ t.blk.phase ≠ .idle ∧ t.responses = s.responses ∧
          t.blk.stepsLeft n < s.blk.stepsLeft n)) := by
  obtain ⟨t, ht⟩ := step_answers h.latch
  have hmove := step_blockTurn (.inl ⟨h.inputs, rfl⟩) ▸ ht
  have hstep := blockMove_busy hbusy hmove
  obtain ⟨e, s1, htxn, -, hresult⟩ := hstep
  refine ⟨t, ht, (busyResult_port hresult).trans htxn.port, ?_⟩
  have hdescends := busyResult_descends (htxn.params ▸ h.limit) h.positive (htxn.blk ▸ h.count) hresult
  rw [htxn.blk, htxn.responses] at hdescends
  refine hdescends.imp_right fun ⟨hbusy', hresponses, hcount, hless⟩ => ⟨?_, hbusy', hresponses, hless⟩
  have hparams := step_params ht
  exact ⟨(busyResult_inputs hresult).trans (htxn.inputs.trans h.inputs), hparams ▸ h.limit, h.positive,
    step_latchOk h.latch ht, hcount⟩

/-- An operation under way has its response within `stepsLeft` steps. -/
theorem Underway.ends {n : Nat} {s : State} (h : Underway n s) (hbusy : s.blk.phase ≠ .idle) :
    ∃ k t resp, k ≤ s.blk.stepsLeft n ∧ runFor k s = .next t ∧ t.blk.phase = .idle ∧
      t.responses = resp :: s.responses ∧ t.port = s.port := by
  induction hm : s.blk.stepsLeft n using Nat.strong_induction_on generalizing s with
  | _ m ih =>
    obtain ⟨t, ht, hport, ⟨hidle, resp, hresp⟩ | ⟨hnext, hbusy', hresponses, hless⟩⟩ := h.step hbusy
    · exact ⟨1, t, resp, hm ▸ Block.stepsLeft_pos hbusy h.count, runFor_one ht, hidle, hresp, hport⟩
    · obtain ⟨k, u, resp, hk, hrun, hidle, hresp, hport'⟩ := ih _ (hm ▸ hless) hnext hbusy' rfl
      exact ⟨k + 1, u, resp, by omega, (runFor_succ ht k).trans hrun, hidle, hresponses ▸ hresp,
        hport'.trans hport⟩

/-- An operation whose acceptance leaves it under way has its response one step later than that. -/
theorem ends_from_acceptance {n m : Nat} {s s1 : State} (haccept : step s = .next s1) (h : Underway n s1)
    (hbusy : s1.blk.phase ≠ .idle) (hresponses : s1.responses = s.responses) (hleft : s1.blk.stepsLeft n ≤ m) :
    ∃ k t resp, k ≤ m + 1 ∧ runFor k s = .next t ∧ t.blk.phase = .idle ∧ t.responses = resp :: s.responses ∧
      t.port = s1.port := by
  obtain ⟨k, t, resp, hk, hrun, hidle, hresp, hport⟩ := h.ends hbusy
  exact ⟨k + 1, t, resp, by omega, (runFor_succ haccept k).trans hrun, hidle, hresponses ▸ hresp, hport⟩

/-- Settles O53: an accepted VREAD has `2n + 4` steps left. -/
theorem readEndsWithinItsBound : Obligations.ReadEndsWithinItsBound := by
  intro s n r rest a hinputs hlimit hn hidle hport hdecode
  have haccept := step_offered (.inl ⟨hinputs, rfl⟩) hidle hport hdecode
  rw [exec_vread_idle (by exact hidle)] at haccept
  exact ends_from_acceptance haccept ⟨hinputs, hlimit, hn,
    acceptResult_latchOk (s1 := { s with port := rest }) hidle (.vread a), nofun⟩ nofun rfl (Nat.le_refl (2 * n + 4))

/-- Settles O54: an accepted VWRITE or SELECT has `2n + 2` steps left, and a SELECT of no die ends in the accepting
step. -/
theorem writeEndsWithinItsBound : Obligations.WriteEndsWithinItsBound := by
  intro s n r rest i hinputs hlimit hn hidle hport hdecode hop
  have haccept := step_offered (.inl ⟨hinputs, rfl⟩) hidle hport hdecode
  obtain ⟨a, d, rfl⟩ | ⟨dev, rfl⟩ := hop
  · rw [exec_vwrite_idle (by exact hidle)] at haccept
    exact ends_from_acceptance haccept ⟨hinputs, hlimit, hn,
      acceptResult_latchOk (s1 := { s with port := rest }) hidle (.vwrite a d),
      Block.countBelow_of_zero hn rfl⟩ nofun rfl (Nat.le_refl (2 * n + 2))
  · cases hdie : dieOfId dev with
    | none =>
      rw [exec_select_noDie (by exact hidle) hdie] at haccept
      exact ⟨1, _, _, by omega, runFor_one haccept, hidle, rfl, rfl⟩
    | some die =>
      rw [exec_select_die (by exact hidle) hdie] at haccept
      exact ends_from_acceptance haccept ⟨hinputs, hlimit, hn,
        acceptResult_latchOk (s1 := { s with port := rest }) hidle (.select dev die hdie),
        Block.countBelow_of_zero hn rfl⟩ nofun rfl (Nat.le_refl (2 * n + 2))

end Sys2Proof.Machine
end

section
/-! PROOFS. Runs with the oracle's script (log entry 4): the polling loops (R181, R182) and the two handshakes end to end
(R170 to R173). Each phase is one lemma that says the state it leaves. -/

namespace Sys2Proof.Machine

/-- The oracle answers and only the block moves. -/
structure OracleRun (s : State) : Prop where
  env : s.env = .oracle
  inputs : s.inputs = []

/-- `s` further on in its operation: all that phases and scripted answers change until it ends. -/
def State.onward (p : Phase) (pcnt : Nat) (trace : List Event) (answers : List BusAnswer) (s : State) : State :=
  { s with trace := trace, answers := answers, blk := { s.blk with phase := p, pcnt := pcnt } }

theorem OracleRun.onward {s : State} (h : OracleRun s) (p : Phase) (pcnt : Nat) (trace : List Event)
    (answers : List BusAnswer) : OracleRun (s.onward p pcnt trace answers) := ⟨h.env, h.inputs⟩

/-! ## One step with a scripted answer -/

/-- `s` with the head of the script used up and recorded as `e`. -/
def State.answeredBy (e : Event) (rest : List BusAnswer) (s : State) : State :=
  { s with answers := rest, trace := e :: s.trace }

section
variable {s : State} {ans : BusAnswer} {rest : List BusAnswer} (h : OracleRun s) (hscript : s.answers = ans :: rest)
include h

theorem OracleRun.step_block : step s = runMove (blockMove s) := step_blockTurn (.inl ⟨h.inputs, rfl⟩)

include hscript

theorem OracleRun.step_status (hp : s.blk.phase = .rdStaleStat ∨ s.blk.phase.isPolling = true) :
    step s = .next ((s.answeredBy (readEvent .status ans) rest).afterStatus ans) := by
  have hmove : blockMove s = .run .busRdStatus s := blockMove_status (by
    cases hph : s.blk.phase <;> simp [hph, Phase.isPolling] at hp ⊢)
  rw [step_block h, hmove]
  exact exec_status (oracleAnswersAnything s ans rest h.env hscript).1

theorem OracleRun.step_read (hp : s.blk.phase = .rdStaleDiscard ∨ s.blk.phase = .rdFetch) :
    step s = (s.answeredBy (readEvent .read ans) rest).afterRead ans := by
  rw [step_block h, blockMove_read hp]
  exact exec_read (oracleAnswersAnything s ans rest h.env hscript).2.1

theorem OracleRun.exec_write (b : Byte) :
    exec (.busWrWrite b) s = (s.answeredBy (writeEvent b ans) rest).afterWrite ans :=
  Machine.exec_write ((oracleAnswersAnything s ans rest h.env hscript).2.2 b)

end

/-! ## The polling loops (R152) -/

section
variable {s : State} {f : Byte → Bool} {next : Phase} {c : RespCode} {v : Byte} {rest : List BusAnswer}
  (h : OracleRun s) (hp : PollLoop s.blk.phase f next c) (hscript : s.answers = .ok v :: rest)
include h hp hscript

theorem OracleRun.step_poll :
    step s = .next ((s.answeredBy (.rd .status v) rest).pollStep f next c (.ok v)) := by
  have hp' : PollLoop (s.answeredBy (.rd .status v) rest).blk.phase f next c := hp
  rw [step_status h hscript (.inr hp.isPolling), readEvent, afterStatus_poll hp']

theorem OracleRun.step_poll_ready (hv : f v = true) :
    step s = .next (s.onward next 0 (.rd .status v :: s.trace) rest) := by
  rw [step_poll h hp hscript, pollStep_ready next c hv]; rfl

theorem OracleRun.step_poll_retry (hv : f v = false) (hn : s.params.pollLimit ≠ .reads (s.blk.pcnt + 1)) :
    step s = .next (s.onward s.blk.phase (s.blk.pcnt + 1) (.dly :: .rd .status v :: s.trace) rest) := by
  rw [step_poll h hp hscript]
  exact congrArg _ (pollStep_retry (s := s.answeredBy _ rest) next c (Bool.eq_false_iff.mp hv) hn)

theorem OracleRun.step_poll_timeout (hv : f v = false) (hn : s.params.pollLimit = .reads (s.blk.pcnt + 1)) :
    step s = .next ((s.answeredBy (.rd .status v) rest).abort c (s.blk.pcnt + 1) none) := by
  rw [step_poll h hp hscript]
  exact congrArg _ (pollStep_timeout (s := s.answeredBy _ rest) next c (Bool.eq_false_iff.mp hv) hn)

end

theorem ne_reads_of_limitAllows {limit : PollLimit} {n m : Nat} (h : limitAllows limit m) (hn : n ≤ m) :
    limit ≠ .reads n := by
  rintro rfl
  exact absurd hn (Nat.not_le.mpr h)

theorem failedPolls_cons (v : Byte) (polls : List Byte) (trace : List Event) :
    failedPolls (v :: polls) ++ trace = failedPolls polls ++ (.dly :: .rd .status v :: trace) := by
  simp [failedPolls]

/-- Failed polls, each with its delay, as long as the limit allows one more (R154). -/
theorem OracleRun.failed_polls {f : Byte → Bool} {next : Phase} {c : RespCode} {more : List BusAnswer}
    (polls : List Byte) {s : State} (h : OracleRun s) (hp : PollLoop s.blk.phase f next c)
    (hpolls : ∀ v ∈ polls, f v = false) (hlimit : limitAllows s.params.pollLimit (s.blk.pcnt + polls.length))
    (hscript : s.answers = polls.map .ok ++ more) :
    runFor polls.length s =
      .next (s.onward s.blk.phase (s.blk.pcnt + polls.length) (failedPolls polls ++ s.trace) more) := by
  induction polls generalizing s with
  | nil => subst hscript; rfl
  | cons v polls ih =>
    obtain ⟨hv, hpolls⟩ := List.forall_mem_cons.mp hpolls
    rw [List.length_cons] at hlimit ⊢
    have hstep := step_poll_retry h hp hscript hv (ne_reads_of_limitAllows hlimit (by omega))
    have hcount : s.blk.pcnt + 1 + polls.length = s.blk.pcnt + (polls.length + 1) := by omega
    rw [← hcount] at hlimit ⊢
    have hrest := ih (s := s.onward s.blk.phase (s.blk.pcnt + 1) (.dly :: .rd .status v :: s.trace)
      (polls.map .ok ++ more)) (h.onward _ _ _ _) hp hpolls hlimit rfl
    rw [runFor_succ hstep, failedPolls_cons]
    exact hrest

/-- The status bytes of a loop that succeeds (R152): the polls fail, `v` shows the condition, and the limit allows it. -/
structure SucceedsAfter (f : Byte → Bool) (bound : PollLimit) (polls : List Byte) (v : Byte) : Prop where
  fails : ∀ p ∈ polls, f p = false
  ready : f v = true
  limit : limitAllows bound polls.length

theorem OracleRun.poll_succeeds {f : Byte → Bool} {next : Phase} {c : RespCode} {more : List BusAnswer}
    {polls : List Byte} {v : Byte} {s : State} (h : OracleRun s) (hp : PollLoop s.blk.phase f next c)
    (hcount : s.blk.pcnt = 0) (hpolls : SucceedsAfter f s.params.pollLimit polls v)
    (hscript : s.answers = polls.map .ok ++ .ok v :: more) :
    runFor (polls.length + 1) s =
      .next (s.onward next 0 (.rd .status v :: (failedPolls polls ++ s.trace)) more) := by
  have hallows : limitAllows s.params.pollLimit (s.blk.pcnt + polls.length) := by
    rw [hcount, Nat.zero_add]
    exact hpolls.limit
  exact runFor_trans (failed_polls polls h hp hpolls.fails hallows hscript)
    (runFor_one (step_poll_ready (h.onward _ _ _ _) hp rfl hpolls.ready))

/-- A loop whose every poll fails times out with the last read the limit allows (R181). -/
theorem OracleRun.poll_times_out {f : Byte → Bool} {next : Phase} {c : RespCode} {more : List BusAnswer}
    {polls : List Byte} {last : Byte} {s : State} (h : OracleRun s) (hp : PollLoop s.blk.phase f next c)
    (hcount : s.blk.pcnt = 0) (hpolls : ∀ p ∈ polls, f p = false) (hlast : f last = false)
    (hlimit : s.params.pollLimit = .reads (polls.length + 1))
    (hscript : s.answers = polls.map .ok ++ .ok last :: more) :
    runFor (polls.length + 1) s = .next { s with
      answers := more
      trace := .rd .status last :: (failedPolls polls ++ s.trace)
      blk := { s.blk with phase := .idle, pcnt := 0, lasterr := ⟨c, s.blk.phase, polls.length + 1, none⟩ }
      responses := ⟨c, none, none, none, s.blk.phase, polls.length + 1, none⟩ :: s.responses } := by
  have hallows : limitAllows s.params.pollLimit (s.blk.pcnt + polls.length) := by
    rw [hlimit, hcount, Nat.zero_add]
    exact Nat.lt_succ_self _
  have hfailed := failed_polls polls h hp hpolls hallows hscript
  rw [hcount, Nat.zero_add] at hfailed
  exact runFor_trans hfailed (runFor_one (step_poll_timeout (h.onward _ _ _ _) hp rfl hlast hlimit))

/-- Settles O51: `poll_times_out` for each loop, its condition a bit of STATUS. -/
theorem pollingLoopTimesOut : Obligations.PollingLoopTimesOut := by
  intro p bit want timeout hloop s polls last more henv hinputs hp hcount hlimit hpolls hlast hscript
  have h : OracleRun s := ⟨henv, hinputs⟩
  obtain ⟨f, next, hpoll, hbit⟩ : ∃ f next, PollLoop p f next timeout ∧
      ∀ v : Byte, v.getLsbD bit ≠ want → f v = false := by
    obtain ⟨rfl, rfl, rfl, rfl⟩ | ⟨rfl, rfl, rfl, rfl⟩ | ⟨rfl, rfl, rfl, rfl⟩ | ⟨rfl, rfl, rfl, rfl⟩ := hloop
    · exact ⟨_, _, .readTx, fun v hv => Bool.eq_false_iff.mpr (mt (txReady_iff v).mp hv)⟩
    · exact ⟨_, _, .readRx, fun v hv => Bool.eq_false_iff.mpr hv⟩
    · exact ⟨_, _, .writeAddr, fun v hv => Bool.eq_false_iff.mpr (mt (txReady_iff v).mp hv)⟩
    · exact ⟨_, _, .writeData, fun v hv => Bool.eq_false_iff.mpr (mt (txReady_iff v).mp hv)⟩
  subst hp
  exact h.poll_times_out hpoll hcount (fun v hv => hbit v (hpolls v hv)) (hbit last hlast) hlimit hscript

/-- Settles O52: without a bound `failed_polls` goes on for any script of failed polls. -/
theorem unboundedPollingNeverEnds : Obligations.UnboundedPollingNeverEnds := by
  intro s polls more henv hinputs hlimit hscript hloop
  have hallows : limitAllows s.params.pollLimit (s.blk.pcnt + polls.length) := hlimit ▸ trivial
  obtain ⟨f, next, c, hpoll, hfails⟩ :
      ∃ f next c, PollLoop s.blk.phase f next c ∧ ∀ v ∈ polls, f v = false := by
    obtain ⟨hp, hpolls⟩ | ⟨hp, hpolls⟩ := hloop
    · exact ⟨_, _, _, hp.symm ▸ PollLoop.readRx, hpolls⟩
    · have htx : ∀ v ∈ polls, txReady v = false := fun v hv => (txReady_eq_false_iff v).mpr (hpolls v hv)
      obtain hp | hp | hp := hp
      · exact ⟨_, _, _, hp.symm ▸ PollLoop.readTx, htx⟩
      · exact ⟨_, _, _, hp.symm ▸ PollLoop.writeAddr, htx⟩
      · exact ⟨_, _, _, hp.symm ▸ PollLoop.writeData, htx⟩
  exact OracleRun.failed_polls polls ⟨henv, hinputs⟩ hpoll hfails hallows hscript

end Sys2Proof.Machine
end

section
/-! PROOFS. The two handshakes end to end with the oracle's script (R170 to R173), phase by phase. -/

namespace Sys2Proof.Machine

/-! ## The phases that are no polling loops -/

/-- `RD_STALE_STAT` and, where it shows a stale byte, the discard (R155, R156). -/
theorem OracleRun.stale_run {s : State} {s0 : Byte} {stale : Option Byte} {more : List BusAnswer} (h : OracleRun s)
    (hp : s.blk.phase = .rdStaleStat) (hstale : s0.getLsbD 0 = stale.isSome)
    (hscript : s.answers = .ok s0 :: (stale.toList.map .ok ++ more)) :
    runFor (1 + stale.toList.length) s =
      .next (s.onward .rdPollTx 0 (stale.toList.map (.rd .read) ++ .rd .status s0 :: s.trace) more) := by
  have hstatus := h.step_status hscript (.inl hp)
  rw [afterStatus_stale (by exact hp), State.phaseStaleStat] at hstatus
  cases stale with
  | none =>
    rw [if_neg (show ¬ rxReady s0 = true from Bool.eq_false_iff.mp hstale)] at hstatus
    exact runFor_one hstatus
  | some v =>
    rw [if_pos (show rxReady s0 = true from hstale)] at hstatus
    have hread := OracleRun.step_read (s := (s.answeredBy (.rd .status s0) (.ok v :: more)).goto .rdStaleDiscard)
      ⟨h.env, h.inputs⟩ rfl (.inl rfl)
    rw [afterRead_discard rfl] at hread
    exact runFor_trans (runFor_one hstatus) (runFor_one hread)

section
variable {s : State} {v : Byte} {rest : List BusAnswer} (h : OracleRun s) (hscript : s.answers = .ok v :: rest)
include h hscript

/-- `RD_CMD` (R158). -/
theorem OracleRun.step_readCommand {a : VAddr} (hp : s.blk.phase = .rdCmd) (haddr : s.blk.addr = some a) :
    step s = .next (s.onward .rdPollRx 0 (.wr .write (cmdByte false a) :: s.trace) rest) := by
  rw [step_block h, blockMove_rdCmd hp haddr, runMove, exec_write h hscript, afterWrite_rdCmd (by exact hp)]
  rfl

/-- `WR_CMD` (R162). -/
theorem OracleRun.step_writeCommand {a : VAddr} (hp : s.blk.phase = .wrCmd) (haddr : s.blk.addr = some a) :
    step s = .next (s.onward .wrPollTx2 0 (.wr .write (cmdByte true a) :: s.trace) rest) := by
  rw [step_block h, blockMove_wrCmd hp haddr, runMove, exec_write h hscript, afterWrite_wrCmd (by exact hp)]
  rfl

/-- `RD_FETCH` (R160). -/
theorem OracleRun.step_fetch (hp : s.blk.phase = .rdFetch) (hop : s.blk.op = some .vread) :
    step s = .next ((s.answeredBy (.rd .read v) rest).completed (some v) s.blk.sel) := by
  rw [step_read h hscript (.inr hp), afterRead_fetch_ok (by exact hp)]
  exact complete_of_ok (completionSel_vread hop)

/-- `WR_DATA` (R164). -/
theorem OracleRun.step_payload {d : Byte} {sel : BitVec 2} (hp : s.blk.phase = .wrData) (hdata : s.blk.data = some d)
    (hsel : s.blk.completionSel = .ok sel) :
    step s = .next ((s.answeredBy (.wr .write d) rest).completed none sel) := by
  rw [step_block h, blockMove_wrData hp hdata, runMove, exec_write h hscript, afterWrite_wrData_ok (by exact hp)]
  exact complete_of_ok hsel

end

/-! ## The handshakes -/

/-- An accepted VREAD that succeeds (R155 to R160). -/
theorem OracleRun.read_run {s : State} {a : VAddr} {s0 t u v ack : Byte} {stale : Option Byte}
    {polls1 polls2 : List Byte} {more : List BusAnswer} (h : OracleRun s) (hp : s.blk.phase = .rdStaleStat)
    (hop : s.blk.op = some .vread) (haddr : s.blk.addr = some a)
    (hstale : s0.getLsbD 0 = stale.isSome)
    (hpolls1 : SucceedsAfter txReady s.params.pollLimit polls1 t)
    (hpolls2 : SucceedsAfter rxReady s.params.pollLimit polls2 u)
    (hscript : s.answers = .ok s0 :: (stale.toList.map .ok ++ (polls1.map .ok ++ .ok t :: .ok ack ::
      (polls2.map .ok ++ .ok u :: .ok v :: more)))) :
    runFor (1 + stale.toList.length + (polls1.length + 1 + (1 + (polls2.length + 1 + 1)))) s =
      .next (State.completed (some v) s.blk.sel { s with
        answers := more
        trace := .rd .read v :: .rd .status u :: (failedPolls polls2 ++ .wr .write (cmdByte false a) :: .rd .status t ::
          (failedPolls polls1 ++ (stale.toList.map (.rd .read) ++ .rd .status s0 :: s.trace))) }) := by
  refine runFor_trans (h.stale_run hp hstale hscript) ?_
  refine runFor_trans (OracleRun.poll_succeeds (h.onward _ _ _ _) .readTx rfl hpolls1 rfl) ?_
  refine runFor_trans (runFor_one (OracleRun.step_readCommand (h.onward _ _ _ _) rfl rfl haddr)) ?_
  refine runFor_trans (OracleRun.poll_succeeds (h.onward _ _ _ _) .readRx rfl hpolls2 rfl) ?_
  exact runFor_one (OracleRun.step_fetch (h.onward _ _ _ _) rfl rfl hop)

/-- An accepted write that succeeds (R161 to R164). -/
theorem OracleRun.write_run {s : State} {a : VAddr} {d t1 t2 ack1 ack2 : Byte} {sel : BitVec 2}
    {polls1 polls2 : List Byte} {more : List BusAnswer} (h : OracleRun s) (hp : s.blk.phase = .wrPollTx1)
    (hcount : s.blk.pcnt = 0) (haddr : s.blk.addr = some a) (hdata : s.blk.data = some d)
    (hsel : s.blk.completionSel = .ok sel)
    (hpolls1 : SucceedsAfter txReady s.params.pollLimit polls1 t1)
    (hpolls2 : SucceedsAfter txReady s.params.pollLimit polls2 t2)
    (hscript : s.answers = polls1.map .ok ++ .ok t1 :: .ok ack1 :: (polls2.map .ok ++ .ok t2 :: .ok ack2 :: more)) :
    runFor (polls1.length + 1 + (1 + (polls2.length + 1 + 1))) s =
      .next (State.completed none sel { s with
        answers := more
        trace := .wr .write d :: .rd .status t2 :: (failedPolls polls2 ++ .wr .write (cmdByte true a) ::
          .rd .status t1 :: (failedPolls polls1 ++ s.trace)) }) := by
  refine runFor_trans (h.poll_succeeds (hp.symm ▸ PollLoop.writeAddr) hcount hpolls1 hscript) ?_
  refine runFor_trans (runFor_one (OracleRun.step_writeCommand (h.onward _ _ _ _) rfl rfl haddr)) ?_
  refine runFor_trans (OracleRun.poll_succeeds (h.onward _ _ _ _) .writeData rfl hpolls2 rfl) ?_
  exact runFor_one (OracleRun.step_payload (h.onward _ _ _ _) rfl rfl hdata hsel)

/-- A `TXready` loop in terms of the bit it tests. -/
theorem succeedsAfter_tx {bound : PollLimit} {polls : List Byte} {v : Byte} (hv : v.getLsbD 1 = false)
    (hpolls : ∀ p ∈ polls, p.getLsbD 1 = true) (hlimit : limitAllows bound polls.length) :
    SucceedsAfter txReady bound polls v :=
  ⟨fun p hp => (txReady_eq_false_iff p).mpr (hpolls p hp), (txReady_iff v).mpr hv, hlimit⟩

/-- Settles O55: acceptance, then `read_run`. -/
theorem readHandshakeTrace : Obligations.ReadHandshakeTrace := by
  intro s r rest a s0 t u v stale polls1 polls2 ack more henv hinputs hidle hport hdecode hstale ht hu hpolls1 hpolls2
    hlimit1 hlimit2 hscript
  have haccept := step_offered (.inl ⟨hinputs, rfl⟩) hidle hport hdecode
  rw [exec_vread_idle (by exact hidle)] at haccept
  have hrun := OracleRun.read_run (s := ({ s with port := rest } : State).setBlk
    { s.blk with op := some .vread, addr := some a, phase := .rdStaleStat }) ⟨henv, hinputs⟩ rfl rfl rfl hstale
    (succeedsAfter_tx ht hpolls1 hlimit1) ⟨hpolls2, hu, hlimit2⟩ hscript
  have hlength : 6 + stale.toList.length + polls1.length + polls2.length =
      1 + stale.toList.length + (polls1.length + 1 + (1 + (polls2.length + 1 + 1))) + 1 := by omega
  rw [hlength, runFor_succ haccept]
  exact hrun

/-- Settles O56: a VWRITE and a SELECT of a die latch what `write_run` sends, and complete with their own `S.sel`. -/
theorem writeHandshakeTrace : Obligations.WriteHandshakeTrace := by
  intro s r rest i a d t1 t2 polls1 polls2 ack1 ack2 more latched henv hinputs hidle hport hdecode ht1 ht2 hpolls1
    hpolls2 hlimit1 hlimit2 hscript hop
  obtain ⟨b, sel, haccept, hp, hcount, haddr, hdata, hsel, hend⟩ : ∃ b sel,
      step s = .next (({ s with port := rest } : State).setBlk b) ∧ b.phase = .wrPollTx1 ∧ b.pcnt = 0 ∧
      b.addr = some a ∧ b.data = some d ∧ b.completionSel = .ok sel ∧
      { b with phase := .idle, pcnt := 0, sel := sel, lasterr := okRecord } =
        { latched with phase := .idle, pcnt := 0, lasterr := ⟨.ok, .idle, 0, none⟩ } := by
    have haccept := step_offered (.inl ⟨hinputs, rfl⟩) hidle hport hdecode
    obtain ⟨rfl, rfl⟩ | ⟨dev, die, rfl, hdie, rfl, rfl, rfl⟩ := hop
    · rw [exec_vwrite_idle (by exact hidle)] at haccept
      exact ⟨_, _, haccept, rfl, rfl, rfl, rfl, completionSel_vwrite rfl rfl, rfl⟩
    · rw [exec_select_die (by exact hidle) hdie] at haccept
      exact ⟨_, _, haccept, rfl, rfl, rfl, rfl, completionSel_select rfl rfl, rfl⟩
  have hrun := OracleRun.write_run (s := ({ s with port := rest } : State).setBlk b) ⟨henv, hinputs⟩ hp hcount haddr
    hdata hsel (succeedsAfter_tx ht1 hpolls1 hlimit1) (succeedsAfter_tx ht2 hpolls2 hlimit2) hscript
  have hlength : 5 + polls1.length + polls2.length =
      polls1.length + 1 + (1 + (polls2.length + 1 + 1)) + 1 := by omega
  rw [hlength, runFor_succ haccept, hrun, ← hend]
  rfl

end Sys2Proof.Machine
end

section
/-! PROOFS. The floating-point decoder (42_fpdecode.md): the fields and the class of a word, the exact value as a
rational number, and the word as a function of its value under `IEEE`. -/

namespace Sys2Proof.Machine

/-! ## Fields (R222) and class (R223) -/

theorem fpSign_eq_ofBool (w : Word) : fpSign w = BitVec.ofBool (w.getLsbD 31) := by
  ext i hi
  simp [fpSign, show i = 0 by omega]

/-- The sign the decoder reads is bit 31. -/
theorem fpSign_eq_one (w : Word) : decide (fpSign w = 1) = w.getLsbD 31 := by
  rw [fpSign_eq_ofBool]
  cases w.getLsbD 31 <;> rfl

/-- A word is its three fields, in order. -/
theorem fpFields_append (w : Word) : fpSign w ++ fpExp w ++ fpFrac w = w := by
  unfold fpSign fpExp fpFrac
  iterate 2 rw [BitVec.extractLsb'_append_extractLsb'_eq_extractLsb' (by rfl)]
  exact BitVec.extractLsb'_eq_self

theorem eq_of_fpFields {w w' : Word} (hsign : w.getLsbD 31 = w'.getLsbD 31) (hexp : fpExp w = fpExp w')
    (hfrac : fpFrac w = fpFrac w') : w = w' := by
  rw [← fpFields_append w, ← fpFields_append w', fpSign_eq_ofBool, fpSign_eq_ofBool, hsign, hexp, hfrac]

section
variable (e : BitVec 8) (f : BitVec 23)

theorem classify_eq : classify e f =
    if e.toNat = 0 then (if f.toNat = 0 then .zero else .subnormal)
    else if e.toNat = 255 then (if f.toNat = 0 then .inf else .nan)
    else .normal := by
  simp only [classify, BitVec.toNat_eq]
  rfl

/-- The table R223: each class with the exponents and fractions it stands for. -/
theorem classify_iff :
    (classify e f = .normal ↔ 1 ≤ e.toNat ∧ e.toNat ≤ 254) ∧
    (classify e f = .zero ↔ e.toNat = 0 ∧ f.toNat = 0) ∧
    (classify e f = .subnormal ↔ e.toNat = 0 ∧ f.toNat ≠ 0) ∧
    (classify e f = .inf ↔ e.toNat = 255 ∧ f.toNat = 0) ∧
    (classify e f = .nan ↔ e.toNat = 255 ∧ f.toNat ≠ 0) := by
  have he := e.isLt
  rw [classify_eq]
  split_ifs <;> simp <;> omega

theorem classify_normal_iff : classify e f = .normal ↔ 1 ≤ e.toNat ∧ e.toNat ≤ 254 := (classify_iff e f).1

/-- `edge` (R220) is set exactly outside NORMAL. -/
theorem edge_iff_not_normal : (e = 0 ∨ e = 255) ↔ classify e f ≠ .normal := by
  rw [ne_eq, classify_normal_iff, BitVec.toNat_eq, BitVec.toNat_eq]
  have he := e.isLt
  change e.toNat = 0 ∨ e.toNat = 255 ↔ _
  omega

end

/-! ## Exact rationals in lowest terms (R16, log entry 22) -/

theorem scaled_ofNat (neg : Bool) (m up : Nat) :
    scaled neg m (.ofNat up) = ⟨(if neg then -1 else 1) * (m * 2 ^ up : Nat), 1⟩ := rfl

theorem scaled_negSucc (neg : Bool) (m down : Nat) : scaled neg m (.negSucc down) =
    ⟨(if neg then -1 else 1) * (m / m.gcd (2 ^ (down + 1)) : Nat), 2 ^ (down + 1) / m.gcd (2 ^ (down + 1))⟩ := rfl

theorem scaled_den_pos (neg : Bool) (m : Nat) (k : Int) : 0 < (scaled neg m k).den := by
  cases k with
  | ofNat up => exact Nat.one_pos
  | negSucc down => exact Nat.div_gcd_pos_of_pos_right m (Nat.two_pow_pos _)

theorem natAbs_signed (neg : Bool) (n : Nat) : ((if neg then -1 else 1) * (n : Int)).natAbs = n := by
  cases neg <;> simp

theorem scaled_coprime (neg : Bool) (m : Nat) (k : Int) :
    Nat.Coprime (scaled neg m k).num.natAbs (scaled neg m k).den := by
  cases k with
  | ofNat up => exact Nat.coprime_one_right _
  | negSucc down =>
    rw [scaled_negSucc, natAbs_signed]
    exact Nat.coprime_div_gcd_div_gcd (Nat.gcd_pos_of_pos_right m (Nat.two_pow_pos _))

/-- `scaled` is the number it names: nothing is rounded (R226). -/
theorem scaled_toRat (neg : Bool) (m : Nat) (k : Int) :
    (scaled neg m k).toRat = (if neg then -1 else 1) * m * 2 ^ k := by
  cases k with
  | ofNat up =>
    rw [scaled_ofNat, Ratio.toRat]
    cases neg <;> simp
  | negSucc down =>
    have hcancel : ((m / m.gcd (2 ^ (down + 1)) : Nat) : Rat) / (2 ^ (down + 1) / m.gcd (2 ^ (down + 1)) : Nat) =
        m / (2 ^ (down + 1) : Nat) :=
      Nat.cast_div_div_div_cancel_right (Nat.gcd_dvd_right ..) (Nat.gcd_dvd_left ..)
    rw [scaled_negSucc, Ratio.toRat, zpow_negSucc, ← div_eq_mul_inv, mul_div_assoc, Int.cast_mul, Int.cast_natCast,
      mul_div_assoc, hcancel]
    push_cast
    rfl

/-- The reconstruction formula R224. -/
theorem formula_toRat (neg : Bool) (e : BitVec 8) (f : BitVec 23) : (formula neg e f).toRat =
    (if neg then -1 else 1) * (2 ^ 23 + (f.toNat : Rat)) * 2 ^ ((e.toNat : Int) - 150) := by
  rw [formula, scaled_toRat]
  push_cast
  rfl

/-- The range of the NORMAL words: the smallest significand at the smallest exponent, the largest at the largest. -/
theorem formula_range (neg : Bool) (e : BitVec 8) (f : BitVec 23) (he : 1 ≤ e.toNat ∧ e.toNat ≤ 254) :
    (2 : Rat) ^ (-126 : Int) ≤ |(formula neg e f).toRat| ∧ |(formula neg e f).toRat| ≤ (2 ^ 24 - 1) * 2 ^ 104 := by
  have hf : (f.toNat : Rat) ≤ 2 ^ 23 - 1 := le_sub_iff_add_le.mpr (by exact_mod_cast f.isLt)
  have hlow : (2 : Rat) ^ (-149 : Int) ≤ 2 ^ ((e.toNat : Int) - 150) := zpow_le_zpow_right₀ one_le_two (by omega)
  have hhigh : (2 : Rat) ^ ((e.toNat : Int) - 150) ≤ 2 ^ (104 : Int) := zpow_le_zpow_right₀ one_le_two (by omega)
  have habs : |(formula neg e f).toRat| = (2 ^ 23 + (f.toNat : Rat)) * 2 ^ ((e.toNat : Int) - 150) := by
    rw [formula_toRat, mul_assoc, abs_mul, abs_of_nonneg (a := _ * _) (by positivity)]
    cases neg <;> simp
  rw [habs]
  constructor
  · calc (2 : Rat) ^ (-126 : Int) = 2 ^ 23 * 2 ^ (-149 : Int) := by norm_num
      _ ≤ _ := by gcongr; exact le_add_of_nonneg_right (Nat.cast_nonneg _)
  · calc _ ≤ (2 ^ 23 + (2 ^ 23 - 1)) * (2 : Rat) ^ (104 : Int) := by gcongr
      _ = _ := by norm_num

/-! ## The value by class (R224, R225, R227) -/

/-- A NORMAL word has the formula's value in both modes. -/
theorem fpValue_normal (mode : FpEdgeMode) (neg : Bool) (e : BitVec 8) (f : BitVec 23) :
    fpValue mode neg e f .normal = .exact (formula neg e f) := by
  cases mode <;> rfl

theorem decodeFloat_value (mode : FpEdgeMode) (w : Word) {cls : FpClass}
    (h : classify (fpExp w) (fpFrac w) = cls) :
    (decodeFloat mode w).value = fpValue mode (w.getLsbD 31) (fpExp w) (fpFrac w) cls := by
  rw [decodeFloat, h, fpSign_eq_one]

/-- Settles O16: `execFdec` at an idle block, with `floatWord_toNat` and `classify_iff` for the record. -/
theorem fdecCompletes : Obligations.FdecCompletes := by
  intro s b hidle
  obtain ⟨hnormal, hzero, hsubnormal, hinf, hnan⟩ := classify_iff (fpExp (floatWord b)) (fpFrac (floatWord b))
  refine ⟨decodeFloat s.params.fpEdge (floatWord b), accept_idle hidle _, rfl, floatWord_toNat b, rfl, rfl, rfl,
    hnormal, hzero, hsubnormal, hinf, hnan, ?_⟩
  rw [decodeFloat, Bool.or_eq_true, decide_eq_true_iff, decide_eq_true_iff]
  exact edge_iff_not_normal _ _

/-- Settles O17: the value by class, its rational by `formula_toRat` and `scaled_toRat`. -/
theorem floatValueIsExact : Obligations.FloatValueIsExact := by
  intro mode w
  obtain ⟨hnormal, hzero, hsubnormal, hinf, hnan⟩ := classify_iff (fpExp w) (fpFrac w)
  refine ⟨fun h => ⟨formula (w.getLsbD 31) (fpExp w) (fpFrac w), ?_, formula_toRat .., scaled_den_pos ..,
    scaled_coprime ..⟩, fun h q hq => ?_, ?_, ?_, ?_, ?_⟩
  · obtain he | rfl := h
    · rw [decodeFloat_value mode w (hnormal.mpr he), fpValue_normal]
    · rw [decodeFloat_value .formula w rfl, fpValue]
  · rw [decodeFloat_value mode w (hnormal.mpr h), fpValue_normal] at hq
    cases hq
    exact formula_range _ _ _ h
  · rintro rfl he hf
    exact decodeFloat_value .ieee w (hzero.mpr ⟨he, hf⟩)
  · rintro rfl he hf
    exact ⟨_, decodeFloat_value .ieee w (hsubnormal.mpr ⟨he, hf⟩), scaled_toRat .., scaled_den_pos ..,
      scaled_coprime ..⟩
  · rintro rfl he hf
    exact decodeFloat_value .ieee w (hinf.mpr ⟨he, hf⟩)
  · rintro rfl he hf
    exact decodeFloat_value .ieee w (hnan.mpr ⟨he, hf⟩)

/-- Settles O18: the mode is read for the value alone, and by `fpValue_normal` not on a NORMAL word. -/
theorem fpModesAgreeOnNormalWords : Obligations.FpModesAgreeOnNormalWords := by
  intro w
  refine ⟨fun (hnormal : classify _ _ = .normal) => ?_, rfl, rfl, rfl, rfl, rfl, rfl⟩
  rw [decodeFloat_value .ieee w hnormal, decodeFloat_value .formula w hnormal, fpValue_normal, fpValue_normal]

/-! ## The word from its `IEEE` value (R226) -/

/-- The magnitude of a word that is neither INF nor NAN, in units of the smallest subnormal `2^(−149)`. -/
def magnitude (e f : Nat) : Nat := (if e = 0 then f else 2 ^ 23 + f) * 2 ^ (e - 1)

theorem magnitude_subnormal (f : Nat) : magnitude 0 f = f := Nat.mul_one f

theorem magnitude_normal {e : Nat} (he : 1 ≤ e) (f : Nat) : magnitude e f = (2 ^ 23 + f) * 2 ^ (e - 1) := by
  rw [magnitude, if_neg (by omega)]

theorem magnitude_lt (e : Nat) {f : Nat} (hf : f < 2 ^ 23) : magnitude e f < 2 ^ (23 + e) := by
  cases e with
  | zero => rwa [magnitude_subnormal]
  | succ n =>
    rw [magnitude_normal (e := n + 1) (by omega), Nat.add_sub_cancel, show 23 + (n + 1) = 24 + n by omega, Nat.pow_add]
    exact Nat.mul_lt_mul_of_pos_right (by omega) (Nat.two_pow_pos n)

theorem le_magnitude_succ (n f : Nat) : 2 ^ (23 + n) ≤ magnitude (n + 1) f := by
  rw [magnitude_normal (e := n + 1) (by omega), Nat.add_sub_cancel, Nat.pow_add]
  exact Nat.mul_le_mul_right _ (Nat.le_add_right ..)

/-- Each exponent has its own binade. -/
theorem magnitude_lt_of_exp_lt {e f e' f' : Nat} (hf : f < 2 ^ 23) (h : e < e') : magnitude e f < magnitude e' f' := by
  obtain ⟨n, rfl⟩ : ∃ n, e' = n + 1 := ⟨e' - 1, by omega⟩
  calc magnitude e f < 2 ^ (23 + e) := magnitude_lt e hf
    _ ≤ 2 ^ (23 + n) := Nat.pow_le_pow_right Nat.two_pos (by omega)
    _ ≤ magnitude (n + 1) f' := le_magnitude_succ n f'

theorem magnitude_inj {e f e' f' : Nat} (hf : f < 2 ^ 23) (hf' : f' < 2 ^ 23)
    (h : magnitude e f = magnitude e' f') : e = e' ∧ f = f' := by
  obtain hlt | rfl | hgt := Nat.lt_trichotomy e e'
  · exact absurd h (magnitude_lt_of_exp_lt hf hlt).ne
  · have hsignificand := Nat.mul_right_cancel (Nat.two_pow_pos _) h
    exact ⟨rfl, by split at hsignificand <;> omega⟩
  · exact absurd h (magnitude_lt_of_exp_lt hf' hgt).ne'

/-- What the value of a word under `IEEE` can be. -/
inductive IeeeValueCase (neg : Bool) (e : BitVec 8) (f : BitVec 23) : FpValue → Prop
  | finite {q : Ratio} (hpos : 0 < magnitude e.toNat f.toNat)
      (hq : q.toRat = (if neg then -1 else 1) * magnitude e.toNat f.toNat * 2 ^ (-149 : Int)) :
      IeeeValueCase neg e f (.exact q)
  | zero (he : e = 0) (hf : f = 0) : IeeeValueCase neg e f (.signedZero neg)
  | infinite (he : e = 255) (hf : f = 0) : IeeeValueCase neg e f (.infinite neg)
  | nan (he : e = 255) : IeeeValueCase neg e f (.nan neg f)

theorem formula_eq_magnitude (neg : Bool) {e : BitVec 8} (f : BitVec 23) (he : 1 ≤ e.toNat) :
    (formula neg e f).toRat = (if neg then -1 else 1) * magnitude e.toNat f.toNat * 2 ^ (-149 : Int) := by
  have hexp : (e.toNat : Int) - 150 = ((e.toNat - 1 : Nat) : Int) + -149 := by omega
  rw [formula_toRat, magnitude_normal he, hexp, zpow_add₀ two_ne_zero, zpow_natCast]
  push_cast
  ring

theorem ieeeValueCase_classify (neg : Bool) (e : BitVec 8) (f : BitVec 23) :
    IeeeValueCase neg e f (ieeeValue neg e f (classify e f)) := by
  obtain ⟨hnormal, hzero, hsubnormal, hinf, hnan⟩ := classify_iff e f
  cases hcls : classify e f with
  | normal =>
    have he := (hnormal.mp hcls).1
    exact .finite (magnitude_normal he _ ▸ by positivity) (formula_eq_magnitude neg f he)
  | zero =>
    obtain ⟨he, hf⟩ := hzero.mp hcls
    exact .zero (BitVec.eq_of_toNat_eq he) (BitVec.eq_of_toNat_eq hf)
  | subnormal =>
    obtain ⟨he, hf⟩ := hsubnormal.mp hcls
    refine .finite ?_ ?_ <;> rw [he, magnitude_subnormal]
    · exact Nat.pos_of_ne_zero hf
    · exact scaled_toRat ..
  | inf =>
    obtain ⟨he, hf⟩ := hinf.mp hcls
    exact .infinite (BitVec.eq_of_toNat_eq he) (BitVec.eq_of_toNat_eq hf)
  | nan => exact .nan (BitVec.eq_of_toNat_eq (hnan.mp hcls).1)

/-- A number other than 0 determines its sign and its magnitude. -/
theorem eq_of_signed_eq {neg neg' : Bool} {m m' : Nat} (hm : 0 < m) (hm' : 0 < m')
    (h : (if neg then -1 else 1 : Rat) * m = (if neg' then -1 else 1) * m') : neg = neg' ∧ m = m' := by
  have hpos : (0 : Rat) < m := Nat.cast_pos.mpr hm
  have hpos' : (0 : Rat) < m' := Nat.cast_pos.mpr hm'
  cases neg <;> cases neg' <;>
    simp only [Bool.false_eq_true, if_true, if_false, one_mul, neg_one_mul, neg_inj, Nat.cast_inj] at h
  case false.false | true.true => exact ⟨rfl, h⟩
  all_goals linarith

/-- A value belongs to one word's fields. -/
theorem IeeeValueCase.inj {neg neg' : Bool} {e e' : BitVec 8} {f f' : BitVec 23} {v : FpValue}
    (h : IeeeValueCase neg e f v) (h' : IeeeValueCase neg' e' f' v) : neg = neg' ∧ e = e' ∧ f = f' := by
  cases h with
  | finite hpos hq =>
    cases h' with
    | finite hpos' hq' =>
      obtain ⟨hneg, hmagnitude⟩ := eq_of_signed_eq hpos hpos'
        (mul_right_cancel₀ (zpow_ne_zero _ two_ne_zero) (hq.symm.trans hq'))
      obtain ⟨he, hf⟩ := magnitude_inj f.isLt f'.isLt hmagnitude
      exact ⟨hneg, BitVec.eq_of_toNat_eq he, BitVec.eq_of_toNat_eq hf⟩
  | zero he hf =>
    cases h' with
    | zero he' hf' => exact ⟨rfl, he.trans he'.symm, hf.trans hf'.symm⟩
  | infinite he hf =>
    cases h' with
    | infinite he' hf' => exact ⟨rfl, he.trans he'.symm, hf.trans hf'.symm⟩
  | nan he =>
    cases h' with
    | nan he' => exact ⟨rfl, he.trans he'.symm, rfl⟩

theorem decodeFloat_ieeeValueCase (w : Word) :
    IeeeValueCase (w.getLsbD 31) (fpExp w) (fpFrac w) (decodeFloat .ieee w).value := by
  rw [decodeFloat_value .ieee w rfl]
  exact ieeeValueCase_classify ..

/-- Settles O19: equal values have equal fields, by `IeeeValueCase.inj`, and the fields are the word. -/
theorem ieeeValueDeterminesTheWord : Obligations.IeeeValueDeterminesTheWord := by
  intro w w' h
  obtain ⟨hsign, hexp, hfrac⟩ := (decodeFloat_ieeeValueCase w).inj (h ▸ decodeFloat_ieeeValueCase w')
  exact eq_of_fpFields hsign hexp hfrac

end Sys2Proof.Machine
end

section
/-! PROOFS. The channel-reorder permutation (43_reorder.md): lane by lane it follows the tables, so its iterates follow
the iterates of `Q` on lane numbers. -/

namespace Sys2Proof.Machine

/-! ## The tables (R251, R252, R254) -/

theorem permTable_permInverse : ∀ k : Fin 18, permTable[permInverse[k]] = k := by decide

theorem permInverse_permTable : ∀ i : Fin 18, permInverse[permTable[i]] = i := by decide

/-- The document's list (R251): physical slot and logical channel, both numbered from 1. -/
def documentPairs : List (Nat × Nat) :=
  [(1, 1), (2, 2), (3, 3), (4, 4), (5, 5), (6, 6), (7, 7), (8, 8), (13, 9), (14, 11), (9, 10), (10, 12),
    (15, 13), (16, 14), (17, 15), (18, 16), (11, 17), (12, 18)]

theorem documentPairs_follow_permTable :
    ∀ p ∈ documentPairs, ∃ i : Fin 18, p.1 - 1 = i.val ∧ p.2 - 1 = permTable[i].val := by decide

/-! ## The lanes (R250, R256) -/

theorem lanes_ext {v w : Lanes} (h : ∀ k : Fin 18, v[k] = w[k]) : v = w :=
  Vector.ext fun k hk => h ⟨k, hk⟩

section
variable (v : Lanes)

theorem lane_congr {j k : Fin 18} (h : j = k) : v[j] = v[k] := congrArg (v[·]) h

theorem reorder_getElem (k : Fin 18) : (reorder v)[k] = v[permInverse[k]] := by
  simp [reorder]

theorem reorderInverse_getElem (i : Fin 18) : (reorderInverse v)[i] = v[permTable[i]] := by
  simp [reorderInverse]

/-- The pseudocode of R250: the lane of physical slot `i` is placed at logical channel `P(i)`. -/
theorem reorder_getElem_permTable (i : Fin 18) : (reorder v)[permTable[i]] = v[i] :=
  (reorder_getElem v _).trans (lane_congr v (permInverse_permTable i))

theorem reorder_reorderInverse : reorder (reorderInverse v) = v :=
  lanes_ext fun k => by rw [reorder_getElem, reorderInverse_getElem, lane_congr v (permTable_permInverse k)]

theorem reorderInverse_reorder : reorderInverse (reorder v) = v :=
  lanes_ext fun i => by rw [reorderInverse_getElem, reorder_getElem_permTable]

end

/-- Settles O20: `execPerm` at an idle block, with `reorder_getElem_permTable` for each pair of the list. -/
theorem permCompletes : Obligations.PermCompletes := by
  intro s v hidle
  refine ⟨reorder v, accept_idle hidle _, fun p hp => ?_⟩
  obtain ⟨i, hslot, hchannel⟩ := documentPairs_follow_permTable p hp
  rw [hslot, hchannel, Vector.getElem?_eq_getElem i.isLt, Vector.getElem?_eq_getElem permTable[i].isLt]
  exact congrArg some (reorder_getElem_permTable v i)

/-- Settles O21: the tables are inverse to each other, and so the reorderings are. -/
theorem reorderRoundTrips : Obligations.ReorderRoundTrips :=
  ⟨fun k => ⟨permTable_permInverse k, permInverse_permTable k⟩,
    fun v => ⟨reorder_reorderInverse v, reorderInverse_reorder v⟩⟩

/-! ## The cycle structure (R256) -/

/-- The lane that PERM moves to lane `k`: `Q` as a function, to be iterated. -/
def sourceLane (k : Fin 18) : Fin 18 := permInverse[k]

theorem sourceLane_fixes_low : ∀ k : Fin 18, k.val < 8 → sourceLane k = k := by decide

theorem sourceLane_iterate_ten : ∀ k : Fin 18, sourceLane^[10] k = k := by decide

/-- Lane 8, physical slot 9, is on a cycle of length ten. -/
theorem sourceLane_iterate_moves_slot_nine : ∀ n < 10, 0 < n → sourceLane^[n] 8 ≠ 8 := by decide

theorem reorder_iterate_getElem (n : Nat) (v : Lanes) (k : Fin 18) : (reorder^[n] v)[k] = v[sourceLane^[n] k] := by
  induction n generalizing v with
  | zero => rfl
  | succ n ih =>
    rw [Function.iterate_succ_apply, ih, reorder_getElem]
    exact lane_congr v (Function.iterate_succ_apply' sourceLane n k).symm

/-- An operand with a different value in every lane: the lane's number. -/
def laneNumbers : Lanes := Vector.ofFn fun k => BitVec.ofNat 32 k.val

theorem laneNumbers_inj : ∀ j k : Fin 18, laneNumbers[j] = laneNumbers[k] → j = k := by decide

theorem reorder_iterate_ten (v : Lanes) : reorder^[10] v = v :=
  lanes_ext fun k => (reorder_iterate_getElem 10 v k).trans (lane_congr v (sourceLane_iterate_ten k))

theorem reorder_iterate_laneNumbers_ne {n : Nat} (hpos : 0 < n) (hlt : n < 10) :
    reorder^[n] laneNumbers ≠ laneNumbers := by
  intro h
  have hlane : laneNumbers[sourceLane^[n] 8] = laneNumbers[(8 : Fin 18)] := by rw [← reorder_iterate_getElem, h]
  exact sourceLane_iterate_moves_slot_nine n hlt hpos (laneNumbers_inj _ _ hlane)

/-- Were PERM its own inverse, two applications would be the identity. -/
theorem reorder_laneNumbers_ne_reorderInverse : reorder laneNumbers ≠ reorderInverse laneNumbers := by
  intro h
  have htwice : reorder^[2] laneNumbers = laneNumbers :=
    calc reorder (reorder laneNumbers) = reorder (reorderInverse laneNumbers) := congrArg reorder h
      _ = laneNumbers := reorder_reorderInverse _
  exact reorder_iterate_laneNumbers_ne (by decide) (by decide) htwice

/-- Settles O22: the iterates follow `sourceLane`'s, and `laneNumbers` shows where a lane moves. -/
theorem reorderHasOrderTen : Obligations.ReorderHasOrderTen :=
  ⟨fun v j hlow => (reorder_getElem v j).trans (lane_congr v (sourceLane_fixes_low j hlow)), reorder_iterate_ten,
    fun _ hpos hlt => ⟨laneNumbers, reorder_iterate_laneNumbers_ne hpos hlt⟩,
    ⟨laneNumbers, reorder_laneNumbers_ne_reorderInverse⟩⟩

end Sys2Proof.Machine
end

section
/-! PROOFS. Exceptions (60_exceptions.md): which request words are refused at decode (R277), SELECT of no die (R273), and
the one way in which an operation ends (R270, R279, R280). -/

namespace Sys2Proof.Machine

/-! ## Errors at acceptance (R273, R277) -/

theorem op_cases : ∀ op : BitVec 3, (op = 5 ∨ op = 6 ∨ op = 7) ∨ op = 0 ∨ op = 1 ∨ op = 2 ∨ op = 3 ∨ op = 4 := by decide

theorem op_reserved_iff : ∀ op : BitVec 3, 5 ≤ op.toNat ↔ op = 5 ∨ op = 6 ∨ op = 7 := by decide

/-- The low 18 bits of a request word are its operand fields and `RSVW` (R111). -/
theorem operandBits_eq (w : Word) : w.extractLsb' 0 18 = reqDev w ++ reqRsvw w ++ reqAddr w ++ reqData w := by
  unfold reqDev reqRsvw reqAddr reqData
  iterate 3 rw [BitVec.extractLsb'_append_extractLsb'_eq_extractLsb' (by rfl)]

theorem operandBits_eq_zero_iff {w : Word} (hrsvw : reqRsvw w = 0) :
    w.extractLsb' 0 18 = 0 ↔ reqDev w = 0 ∧ reqAddr w = 0 ∧ reqData w = 0 := by
  rw [operandBits_eq, hrsvw]
  simp only [← BitVec.toNat_inj, toNat_concat, BitVec.ofNat_eq_ofNat, BitVec.toNat_ofNat]
  omega

/-- A check of R122 refuses the word exactly where its condition holds. -/
theorem check_refuses_iff {ε α : Type} {c : Prop} [Decidable c] (e : ε) (a : α) :
    (∃ e', (if c then .error e else .ok a : Except ε α) = .error e') ↔ c := by
  by_cases hc : c <;> simp [hc]

/-- R122 as a condition on the fields: a reserved operation or bit, or a field that the operation requires to be 0. -/
theorem decodeReq_refuses_iff (r : Request) : (∃ e, decodeReq r = .error e) ↔
    (5 ≤ (reqOp r.word).toNat ∨ reqRsv r.word ≠ 0 ∨ reqRsvw r.word ≠ 0 ∨
      (reqOp r.word = 0 ∧ (reqDev r.word ≠ 0 ∨ reqData r.word ≠ 0)) ∨
      (reqOp r.word = 1 ∧ reqDev r.word ≠ 0) ∨
      (reqOp r.word = 2 ∧ (reqAddr r.word ≠ 0 ∨ reqData r.word ≠ 0)) ∨
      ((reqOp r.word = 3 ∨ reqOp r.word = 4) ∧ r.word.extractLsb' 0 18 ≠ 0)) := by
  rw [op_reserved_iff]
  by_cases hrsv : reqRsv r.word ≠ 0 ∨ reqRsvw r.word ≠ 0
  · refine iff_of_true ?_ (.inr (hrsv.imp_right .inl))
    by_cases hop : reqOp r.word = 5 ∨ reqOp r.word = 6 ∨ reqOp r.word = 7
    · exact ⟨_, if_pos hop⟩
    · exact ⟨_, (if_neg hop).trans (if_pos hrsv)⟩
  · obtain ⟨hrsv, hrsvw⟩ : reqRsv r.word = 0 ∧ reqRsvw r.word = 0 := by simpa only [not_or, not_not] using hrsv
    rw [ne_eq (r.word.extractLsb' 0 18), operandBits_eq_zero_iff hrsvw]
    obtain hop | hop | hop | hop | hop | hop := op_cases (reqOp r.word)
    · exact iff_of_true ⟨_, if_pos hop⟩ (.inl hop)
    all_goals
      simp only [decodeReq, hop, hrsv, hrsvw, check_refuses_iff, BitVec.ofNat_eq_ofNat, BitVec.reduceEq, reduceIte, ne_eq,
        not_true_eq_false, not_and_or, or_self, or_false, false_or, or_true, true_and, false_and]

/-- In `IDLE` the block's turn rejects a word that decodes to nothing (R122, R277). -/
theorem step_rejected {s s0 : State} {r : Request} {rest : List Request} {e : DecodeError} (hturn : s.blockTurn s0)
    (hidle : s.blk.phase = .idle) (hport : s.port = r :: rest) (hdecode : decode (.req r) = .error e) :
    step s = .next (({ s0 with port := rest } : State).reject .illegalRequest) := by
  obtain ⟨hblk, hport0, -⟩ := blockTurn_keeps hturn
  rw [step_blockTurn hturn]
  simp only [blockMove, hblk, hidle, acceptMove, hport0, hport, hdecode, runMove]

/-- Settles O11: `decodeReq_refuses_iff` and `step_rejected`. -/
theorem illegalRequestEndsAtDecode : Obligations.IllegalRequestEndsAtDecode := by
  refine ⟨decodeReq_refuses_iff, fun s s0 r rest e hturn hidle hport hdecode => ?_⟩
  obtain ⟨hblk, -, -, hresponses, -⟩ := blockTurn_keeps hturn
  rw [step_rejected hturn hidle hport hdecode, ← hblk, ← hresponses]
  rfl

/-- Settles O15: DeviceId 3 names no die. -/
theorem selectOfNoDieIsInvalid : Obligations.SelectOfNoDieIsInvalid := fun _ hidle => exec_select_noDie hidle rfl

/-! ## The end of an operation (R270, R279, R280) -/

/-- From `s` to `t` an operation ended: one response, `IDLE`, the response's record in `S.lasterr`, and with an error
`S.sel` and the latched request kept. -/
def EndsOperation (s t : State) : Prop :=
  ∃ r : Response, t.responses = r :: s.responses ∧ t.blk.phase = .idle ∧ t.blk.lasterr = r.record ∧
    (r.code ≠ .ok → t.blk.sel = s.blk.sel ∧ s.blk.sameLatch t.blk)

/-- From `s` to `t` the block is at work on an operation that has not ended. -/
def GoesOn (s t : State) : Prop :=
  t.responses = s.responses ∧ t.blk.lasterr = s.blk.lasterr ∧ t.blk.phase ≠ .idle

theorem EndsOperation.of_sameBlock {s s1 t : State} (hsame : SameBlock s s1) (h : EndsOperation s1 t) :
    EndsOperation s t := by
  rwa [EndsOperation, hsame.blk, hsame.responses] at h

theorem GoesOn.of_sameBlock {s s1 t : State} (hsame : SameBlock s s1) (h : GoesOn s1 t) : GoesOn s t := by
  rwa [GoesOn, hsame.blk, hsame.responses] at h

section
variable (s : State)

theorem endOperation_ends (hidle : s.blk.phase = .idle) (le : LastErr) (rdata : Option Byte) (fp : Option FpResult)
    (vec : Option Lanes) : EndsOperation s (s.endOperation le rdata fp vec) :=
  ⟨_, rfl, hidle, rfl, fun _ => ⟨rfl, rfl, rfl, rfl, rfl⟩⟩

theorem abort_ends (code : RespCode) (polls : Nat) (info : Option TErr) : EndsOperation s (s.abort code polls info) :=
  ⟨_, rfl, rfl, rfl, fun _ => ⟨rfl, rfl, rfl, rfl, rfl⟩⟩

theorem completed_ends (rdata : Option Byte) (sel : BitVec 2) : EndsOperation s (s.completed rdata sel) :=
  ⟨okResponse rdata, rfl, rfl, rfl, fun herr => absurd rfl herr⟩

end

/-- A row of R167 aborts or completes the operation, or leads to a busy phase. -/
theorem busyResult_ends_or_goesOn {s1 t : State} {e : Event} (hbusy : s1.blk.phase ≠ .idle) (h : BusyResult s1 e t) :
    EndsOperation s1 t ∨ GoesOn s1 t := by
  cases h with
  | failed => exact .inl (abort_ends ..)
  | timeout => exact .inl (abort_ends ..)
  | fetched => exact .inl (completed_ends ..)
  | written => exact .inl (completed_ends ..)
  | retry => exact .inr ⟨rfl, rfl, hbusy⟩
  | ready _ _ _ _ hp => exact .inr ⟨rfl, rfl, hp.next_busy⟩
  | stale => exact .inr ⟨rfl, rfl, nofun⟩
  | clean => exact .inr ⟨rfl, rfl, nofun⟩
  | discarded => exact .inr ⟨rfl, rfl, nofun⟩
  | readSent => exact .inr ⟨rfl, rfl, nofun⟩
  | writeSent => exact .inr ⟨rfl, rfl, nofun⟩

/-- An acceptance ends the operation at once, or begins a handshake. -/
theorem acceptResult_ends_or_goesOn {s1 t : State} {i : Instr} (hidle : s1.blk.phase = .idle)
    (h : AcceptResult s1 i t) : EndsOperation s1 t ∨ GoesOn s1 t := by
  cases h with
  | vread => exact .inr ⟨rfl, rfl, nofun⟩
  | vwrite => exact .inr ⟨rfl, rfl, nofun⟩
  | select => exact .inr ⟨rfl, rfl, nofun⟩
  | noDie => exact .inl (endOperation_ends _ hidle ..)
  | fdec => exact .inl (endOperation_ends _ hidle ..)
  | perm => exact .inl (endOperation_ends _ hidle ..)

/-- From `s` to `t` no operation ended: neither the one under way nor one whose request the step took from the port. -/
def NoOperationEnds (s t : State) : Prop :=
  t.responses = s.responses ∧ t.blk.lasterr = s.blk.lasterr ∧
    (s.blk.phase ≠ .idle ∨ t.port.length < s.port.length → t.blk.phase ≠ .idle)

theorem GoesOn.noOperationEnds {s t : State} (h : GoesOn s t) : NoOperationEnds s t := by
  obtain ⟨hresponses, hlasterr, hbusy⟩ := h
  exact ⟨hresponses, hlasterr, fun _ => hbusy⟩

/-- A block that does not move, and takes no request from the port, ends no operation. -/
theorem SameBlock.noOperationEnds {s t : State} (hsame : SameBlock s t) (hport : s.port.length ≤ t.port.length) :
    NoOperationEnds s t := by
  refine ⟨hsame.responses, by rw [hsame.blk], ?_⟩
  rw [hsame.blk]
  exact fun h => h.resolve_right (Nat.not_lt.mpr hport)

/-- Reset apart, a step ends no operation, or ends one. -/
theorem step_ends_or_not {s t : State} (h : step s = .next t) :
    (t.responses = s.responses ∧ ∃ more, s.inputs = .reset :: more) ∨ NoOperationEnds s t ∨ EndsOperation s t := by
  have from_same : ∀ {s1 : State}, SameBlock s s1 → EndsOperation s1 t ∨ GoesOn s1 t →
      NoOperationEnds s t ∨ EndsOperation s t := fun hsame hresult =>
    hresult.symm.imp (fun hgoes => (hgoes.of_sameBlock hsame).noOperationEnds) fun hends => hends.of_sameBlock hsame
  cases step_result h with
  | waits _ hturn =>
    obtain ⟨-, hport, -⟩ := blockTurn_keeps hturn
    exact .inr (.inl ((blockTurn_sameBlock hturn).noOperationEnds (by rw [hport])))
  | rejects s0 _ rest _ hturn hidle =>
    have hsame := sameBlock_setPort (blockTurn_sameBlock hturn) rest
    exact .inr (from_same hsame (.inl (endOperation_ends _ (hsame.blk ▸ hidle) ..)))
  | accepts s0 _ _ rest _ hturn hidle _ _ haccept =>
    have hsame := sameBlock_setPort (blockTurn_sameBlock hturn) rest
    exact .inr (from_same hsame (acceptResult_ends_or_goesOn (hsame.blk ▸ hidle) haccept))
  | busy s0 _ hturn hbusy hstep =>
    obtain ⟨hparams, hblk, hresponses⟩ := blockTurn_sameBlock hturn
    obtain ⟨_, s1, htxn, -, hresult⟩ := hstep
    have hsame : SameBlock s s1 :=
      ⟨htxn.params.trans hparams, htxn.blk.trans hblk, htxn.responses.trans hresponses⟩
    exact .inr (from_same hsame (busyResult_ends_or_goesOn (hsame.blk ▸ hbusy) hresult))
  | device _ _ _ _ hturn =>
    obtain ⟨more, -, rfl⟩ := hturn
    exact .inr (.inl (SameBlock.noOperationEnds ⟨rfl, rfl, rfl⟩ le_rfl))
  | changes => exact .inr (.inl (SameBlock.noOperationEnds ⟨rfl, rfl, rfl⟩ le_rfl))
  | offers => exact .inr (.inl (SameBlock.noOperationEnds ⟨rfl, rfl, rfl⟩ (by simp)))
  | resets more hinputs => exact .inl ⟨rfl, more, hinputs⟩

/-- Settles O43: the cases of `step_ends_or_not`. -/
theorem anOperationEndsInIdleWithOneResponse : Obligations.AnOperationEndsInIdleWithOneResponse := by
  intro s t h
  obtain ⟨hresponses, hreset⟩ | ⟨hresponses, hnone⟩ | hends := step_ends_or_not h
  · exact .inl ⟨hresponses, .inl hreset⟩
  · exact .inl ⟨hresponses, .inr hnone⟩
  · exact .inr hends

end Sys2Proof.Machine
end

section
/-! PROOFS. Block reset (R310). -/

namespace Sys2Proof.Machine

/-- A reset step is the block's reset, whatever the block and the device are doing. -/
theorem step_reset {s : State} {more : List Input} (h : s.inputs = .reset :: more) :
    step s = .next ({ s with inputs := more } : State).blockReset := by
  simp [step, nextMove, h, runMove]

/-- Settles O44: the reset step is `blockReset`, which writes the block alone; the reset `BLKSTAT` is part of O45. -/
theorem resetSetsEveryBlockField : Obligations.ResetSetsEveryBlockField := by
  obtain ⟨-, -, -, hblkstat⟩ := blkstatPacksItsFields
  exact ⟨fun _ _ hinputs => step_reset hinputs, rfl, hblkstat⟩

end Sys2Proof.Machine
end
